-- ==== Sys2Proof/Word.lean ====
section
/-! DEFINITION. The words of the BERAK-CORE cipher engine: bytes, byte strings of fixed length and 32-bit counters
(spec/00_scope.md rules R6, R13). -/

namespace Sys2Proof

/-- A byte: unsigned 8 bits (R6, R13). Addition and subtraction of `BitVec 8` wrap mod 256, which is the `+8` and `-8`
of R14. -/
abbrev Byte := BitVec 8

/-- A 32-bit unsigned counter: LEN and REMAIN (R7, R29, R36). -/
abbrev Word32 := BitVec 32

/-- A 16-byte string: a block, a key or a subkey (R6). Index 0 is the first byte. -/
abbrev Block := Vector Byte 16

/-- An 8-byte half of a block (R6). -/
abbrev Half := Vector Byte 8

/-- A table of one byte per byte value (R8). -/
abbrev ByteTable := Vector Byte 256

/-- Sixteen zero bytes: the initialisation vector (R6) and the reset value of the 16-byte registers (R44). -/
def zeroBlock : Block := Vector.replicate 16 0

/-- Every byte value once, in rising order: the index range 0..255 of R273. -/
def allBytes : List Byte := (List.range 256).map (BitVec.ofNat 8)

end Sys2Proof
end

