-- ==== Sys2Proof/Syntax.lean ====
section
/-! DEFINITION. The commands of spec/30_encoding.md rule R92. -/

namespace Sys2Proof

/-- The seven commands (R92), one constructor per row of the opcode table. A command has no operand field: its operands
are read from the snapshot PEND (R91). Every term is a well-formed instruction. -/
inductive Instr where
  /-- 0x00, R202 -/
  | nop
  /-- 0x01, R203 -/
  | loadKey
  /-- 0x02, R204 -/
  | encBegin
  /-- 0x03, R206 -/
  | encBlock
  /-- 0x04, R207 -/
  | decBegin
  /-- 0x05, R209 -/
  | decBlock
  /-- 0x06, R210 -/
  | endSession
  deriving DecidableEq, Repr

end Sys2Proof
end

