-- ==== Sys2Proof/Decode.lean ====
section
/-! DEFINITION. The decoder and the encoder of the command byte (spec/30_encoding.md rules R90-R95). -/

namespace Sys2Proof

/-- Why a command byte is illegal (R93). Both kinds end with BAD_OPCODE. -/
inductive IllegalByte where
  /-- bits 7:4 are not 0000: the bytes 0x10-0xFF -/
  | reservedField
  /-- bits 7:4 are 0000 and bits 3:0 name no command: the bytes 0x07-0x0F -/
  | unassignedOpcode
  deriving DecidableEq, Repr

/-- The RSV field, bits 7:4 (R90). -/
def rsvField (v : Byte) : BitVec 4 := v.extractLsb' 4 4

/-- The OP field, bits 3:0 (R90). -/
def opField (v : Byte) : BitVec 4 := v.extractLsb' 0 4

/-- The opcode map's OP column, read as a decoder (R92). -/
def decodeOp (op : BitVec 4) : Except IllegalByte Instr :=
  match op.toNat with
  | 0 => .ok .nop
  | 1 => .ok .loadKey
  | 2 => .ok .encBegin
  | 3 => .ok .encBlock
  | 4 => .ok .decBegin
  | 5 => .ok .decBlock
  | 6 => .ok .endSession
  | _ => .error .unassignedOpcode

/-- `decode(v)` of R95, total on all 256 bytes. -/
def decode (v : Byte) : Except IllegalByte Instr :=
  if rsvField v = 0 then decodeOp (opField v) else .error .reservedField

/-- The opcode of a command (R92). -/
def opcode : Instr → BitVec 4
  | .nop => 0
  | .loadKey => 1
  | .encBegin => 2
  | .encBlock => 3
  | .decBegin => 4
  | .decBlock => 5
  | .endSession => 6

/-- The one byte of a command: RSV = 0000, then OP (R90). -/
def encode (i : Instr) : Byte := (0#4 ++ opcode i : BitVec 8)

/-- The byte that a word of the opcode table gives: a command is exactly one byte (R90), so bits from `nbits` up are 0. -/
def commandByte (nbits w : Nat) : Byte := BitVec.ofNat 8 (w % 2 ^ nbits)

/-- The instruction the decoder reads from a word of the opcode table; none where it refuses, or where the word is longer
than the one byte a command has (R90). -/
def decodeTableWord (nbits w : Nat) : Option Instr :=
  if nbits ≤ 8 then
    match decode (commandByte nbits w) with
    | .ok i => some i
    | .error _ => none
  else none

end Sys2Proof
end

