-- ==== Sys2Proof/Config.lean ====
section
/-! DEFINITION. The configuration of the block: the constant tables and the two reading switches
(spec/00_scope.md rules R8-R12). The tables are open parameters: no value of them is assumed anywhere in the model. -/

namespace Sys2Proof

/-- The rotor identity. One type exists and a rotor identifier selects nothing (R6, R10). -/
inductive RotorType where
  | I
  deriving DecidableEq, Repr

/-- SCHED_REFRESH: how the per-block subkey refresh works (R12, R145). -/
inductive SchedRefresh where
  | chain
  | self
  deriving DecidableEq, Repr

/-- POS_SRC: which shifted half gives the rotor start positions (R12, R142). -/
inductive PosSrc where
  | left
  | right
  deriving DecidableEq, Repr

/-- A left-shift amount, 1 or 2 (R9(d), R140). -/
inductive ShiftAmount where
  | one
  | two
  deriving DecidableEq, Repr

/-- The shift amount as a number. -/
def ShiftAmount.toNat : ShiftAmount → Nat
  | .one => 1
  | .two => 2

/-- The wiring of one rotor type: FWD, the embedded INV and NOTCH (R8, R110). INV is data of its own, which the reset
self-check compares with FWD (R273). -/
structure RotorTable where
  fwd : ByteTable
  inv : ByteTable
  notch : Byte
  deriving DecidableEq, Repr

/-- The constant tables of R8. The types carry R9(c) (an EXP entry is below 64), R9(d) (a shift is 1 or 2) and R9(e)
(an S-box entry is a byte). -/
structure Tables where
  rotorI : RotorTable
  refl : ByteTable
  exp : Vector (Fin 64) 128
  sbox : Vector (Vector (Vector Byte 16) 2) 8
  shifts : Vector ShiftAmount 16
  deriving DecidableEq, Repr

/-- R9(a): FWD holds 256 distinct byte values. -/
abbrev Tables.FwdIsPermutation (t : Tables) : Prop := t.rotorI.fwd.toList.Nodup

/-- R9(b): REFL is an involution. Fixed points are allowed (R115). -/
abbrev Tables.ReflIsInvolution (t : Tables) : Prop :=
  ∀ x ∈ allBytes, t.refl[(t.refl[x.toNat]'x.isLt).toNat]'(BitVec.isLt _) = x

/-- A well-formed configuration (R9): the tables, the switches (R12) and the two conditions that the table types do not
carry already. An ill-formed configuration cannot be built: `RawTables.load` of WellFormed.lean refuses it
(log 4, DESIGN CHOICE). INV need not be consistent with FWD (R9, R273). -/
structure Config where
  tables : Tables
  schedRefresh : SchedRefresh
  posSrc : PosSrc
  fwd_permutation : tables.FwdIsPermutation
  refl_involution : tables.ReflIsInvolution
  deriving DecidableEq, Repr

/-- The table a rotor identity selects (R10). -/
def Config.rotorTable (c : Config) : RotorType → RotorTable
  | .I => c.tables.rotorI

/-- The identity byte table. It only shows that a well-formed configuration exists; no machine uses it. -/
def identityTable : ByteTable := ⟨allBytes.toArray, by simp [allBytes]⟩

theorem allBytes_nodup : allBytes.Nodup :=
  List.Nodup.map_on
    (fun x hx y hy h => by
      have hx' := List.mem_range.mp hx
      have hy' := List.mem_range.mp hy
      have := congrArg BitVec.toNat h
      simp only [BitVec.toNat_ofNat] at this
      omega)
    List.nodup_range

theorem identityTable_get (x : Byte) : identityTable[x.toNat]'x.isLt = x := by
  simp [identityTable, allBytes]

/-- The tables `OpenTables` uses to show it is inhabited; no machine uses them. -/
def someTables : Tables where
  rotorI := { fwd := identityTable, inv := identityTable, notch := 0 }
  refl := identityTable
  exp := Vector.replicate 128 0
  sbox := Vector.replicate 8 (Vector.replicate 2 zeroBlock)
  shifts := Vector.replicate 16 .one

/-- Tables with the two conditions of R9 that their types do not carry. The defaults exist only so that the type is
known to be inhabited, which `opaque` below needs; nothing reads them. -/
structure OpenTables where
  tables : Tables := someTables
  fwd_permutation : tables.FwdIsPermutation := by exact allBytes_nodup
  refl_involution : tables.ReflIsInvolution := by
    exact fun x _ => (identityTable_get _).trans (identityTable_get x)
  deriving Inhabited

/-- The tables of the real block: OPEN (R8, R11). An opaque constant: nothing in Lean can evaluate it
(log 2, DESIGN CHOICE). -/
opaque Config.platformTables : OpenTables

/-- The configuration that `State.reset` carries: the open tables, with the switches at the defaults that R12 takes as
its normative reading (log 3). Statements about all states hold for every configuration and both switches. -/
def Config.platform : Config where
  tables := Config.platformTables.tables
  schedRefresh := .chain
  posSrc := .left
  fwd_permutation := Config.platformTables.fwd_permutation
  refl_involution := Config.platformTables.refl_involution

/-- BASE: where the block sits in a larger system's address space, a parameter of the platform (R72, log 15). -/
opaque Config.base : Nat

end Sys2Proof
end

