-- ==== Sys2Proof/Machine/Bytes.lean ====
section
/-! DEFINITION. Byte, bit and byte-order helpers (spec/00_scope.md rules R13-R15, spec/20_memory.md rules R63, R69, R70). -/

namespace Sys2Proof.Machine

/-- `shl8(b, s)`: a left shift that discards the high bits carried out (R14). -/
def shl8 (b : Byte) (s : Nat) : Byte := b <<< s

/-- `A xor B` on byte strings of equal length, byte by byte (R13). -/
def xorBytes {n : Nat} (a b : Vector Byte n) : Vector Byte n := Vector.ofFn fun i => a[i] ^^^ b[i]

/-- The left half of a 16-byte value: bytes 0-7 (R69, R180). -/
def leftHalf (b : Block) : Half := Vector.ofFn fun i => b[i.val]

/-- The right half of a 16-byte value: bytes 8-15 (R69, R180). -/
def rightHalf (b : Block) : Half := Vector.ofFn fun i => b[8 + i.val]

/-- `l ++ r`, the left half first (R69, R182). -/
def joinHalves (l r : Half) : Block :=
  Vector.ofFn fun i => if h : i.val < 8 then l[i.val] else r[i.val - 8]

/-- The entry of a byte table at a byte: total, since a byte is below 256 (R121). -/
def lookup (t : ByteTable) (b : Byte) : Byte := t[b.toNat]'b.isLt

/-- Bit `j` of the bit string of a byte string, MSB-first: `B[j div 8][7 - (j mod 8)]` (R15). -/
def bitString {n : Nat} (s : Vector Byte n) (j : Fin (8 * n)) : Bool :=
  (s[j.val / 8]'(by omega)).getLsbD (7 - j.val % 8)

/-- The byte whose bits, from bit 7 down to bit 0, are `f 0`, ..., `f 7`. -/
def byteOfBits (f : Fin 8 → Bool) : Byte :=
  (BitVec.ofBool (f 0) ++ BitVec.ofBool (f 1) ++ BitVec.ofBool (f 2) ++ BitVec.ofBool (f 3) ++
    BitVec.ofBool (f 4) ++ BitVec.ofBool (f 5) ++ BitVec.ofBool (f 6) ++ BitVec.ofBool (f 7) : BitVec 8)

/-- Byte `i` of a 32-bit counter, byte 0 the least significant (R63). -/
def counterByte (w : Word32) (i : Fin 4) : Byte := w.extractLsb' (8 * i.val) 8

/-- A 32-bit counter with byte `i` replaced (R63). -/
def setCounterByte (w : Word32) (i : Fin 4) (v : Byte) : Word32 :=
  let at' (k : Fin 4) : Byte := if k = i then v else counterByte w k
  (at' 3 ++ at' 2 ++ at' 1 ++ at' 0 : BitVec 32)

end Sys2Proof.Machine
end

