-- ==== Sys2Proof/Machine/Round.lean ====
section
/-! DEFINITION. The round function (spec/42_round_function.md rules R160-R163). Pure: it reads its operands and the constant
tables. -/

namespace Sys2Proof.Machine

/-- The input bit that output bit `i` of the expansion copies: EXP[i] (R160). -/
def expIndex (c : Config) (i : Fin 128) : Fin (8 * 8) := c.tables.exp[i]

/-- `Expand(h)`: bit i of the result is bit EXP[i] of `h`, numbered MSB-first (R15, R160). -/
def expand (c : Config) (h : Half) : Block :=
  Vector.ofFn fun (k : Fin 16) => byteOfBits fun (b : Fin 8) => bitString h (expIndex c ⟨8 * k.val + b.val, by omega⟩)

/-- `KeyMix(E, K)` (R161). -/
def keyMix (e k : Block) : Block := xorBytes e k

/-- The S-box row of a byte pair: topbit(byte0) xor topbit(byte1) (R162). -/
def sboxRow (byte0 byte1 : Byte) : Fin 2 := if byte0.getLsbD 7 ^^ byte1.getLsbD 7 then 1 else 0

/-- The S-box column of a byte pair: bits 3:0 of byte0 (R162). -/
def sboxColumn (byte0 : Byte) : Fin 16 := (byte0.extractLsb' 0 4).toFin

/-- `SBoxLayer(X)`: block k is bytes 2k and 2k+1, looked up in the S-box of position k (R162). -/
def sboxLayer (c : Config) (x : Block) : Half :=
  Vector.ofFn fun (k : Fin 8) =>
    c.tables.sbox[k][sboxRow x[2 * k.val] x[2 * k.val + 1]][sboxColumn x[2 * k.val]]

/-- `RoundF(h, K)` (R163). -/
def roundF (c : Config) (h : Half) (k : Block) : Half := sboxLayer c (keyMix (expand c h) k)

end Sys2Proof.Machine
end

