-- ==== Sys2Proof/Machine/Feistel.lean ====
section
/-! DEFINITION. The Feistel engine (spec/43_feistel.md rules R180-R183). -/

namespace Sys2Proof.Machine

/-- One encrypt round: both new halves from the old ones (R181). -/
def encRound (c : Config) (sk : Vector Block 16) (lr : Half × Half) (i : Fin 16) : Half × Half :=
  (lr.2, xorBytes lr.1 (roundF c lr.2 sk[i]))

/-- One decrypt round: both new halves from the old ones (R183). -/
def decRound (c : Config) (sk : Vector Block 16) (lr : Half × Half) (i : Fin 16) : Half × Half :=
  (xorBytes lr.2 (roundF c lr.1 sk[i]), lr.1)

/-- `FeistelEnc(B, SK)`: rounds 0..15, no final swap (R181, R182). -/
def feistelEnc (c : Config) (b : Block) (sk : Vector Block 16) : Block :=
  match (List.finRange 16).foldl (encRound c sk) (leftHalf b, rightHalf b) with
  | (l, r) => joinHalves l r

/-- `FeistelDec(B, SK)`: rounds 15 down to 0 (R183). -/
def feistelDec (c : Config) (b : Block) (sk : Vector Block 16) : Block :=
  match (List.finRange 16).reverse.foldl (decRound c sk) (leftHalf b, rightHalf b) with
  | (l, r) => joinHalves l r

end Sys2Proof.Machine
end

