-- ==== Sys2Proof/Machine/Interface.lean ====
section
/-! DEFINITION. The host's side of the interface as data: the registers of spec/20_memory.md rule R62, the bus events of rule
R74 and the host assembly of spec/30_encoding.md rules R96-R97. -/

namespace Sys2Proof.Machine

/-- The registers of the register map (R62). -/
inductive Reg where
  | cmd
  | status
  | err
  | keylen
  | len (i : Fin 4)
  | remain (i : Fin 4)
  | keyIn (i : Fin 16)
  | blkIn (i : Fin 16)
  | blkOut (i : Fin 16)
  /-- 0x0C-0x0F and 0x40-0xFF (R64) -/
  | reserved (a : Byte)
  deriving DecidableEq, Repr

/-- The elements of the total order of R74, and the reset input of R270. -/
inductive BusEvent where
  /-- `RegRead(a)` (R60) -/
  | read (a : Byte)
  /-- `RegWrite(a, v)` (R60) -/
  | write (a v : Byte)
  /-- the engine's turn: it takes its step if BUSY = 1 (R200) -/
  | engine
  /-- the platform asserts reset (R270) -/
  | reset
  deriving DecidableEq, Repr

/-- A bus transaction of the host, as recorded in a trace (R96). -/
inductive Transaction where
  /-- `wr A, V` -/
  | wr (a v : Byte)
  /-- `rd A` -/
  | rd (a : Byte)
  deriving DecidableEq, Repr

/-- The statements of the host assembly: the two base statements (R96) and the pseudo-statements (R97). -/
inductive HostStmt where
  | wr (a v : Byte)
  | rd (a : Byte)
  | cmd (i : Instr)
  | wait
  | setlen (n : Nat)
  | putkey (k : Block)
  | putblk (b : Block)
  | getblk
  | expect (a v : Byte)
  | run (i : Instr)
  deriving DecidableEq, Repr

/-- What a statement of the host assembly comes to on the bus (R97). -/
inductive HostAction where
  /-- one base statement -/
  | bus (t : Transaction)
  /-- `rd STATUS` repeated until bit 0 of the byte read is 0 -/
  | pollStatus
  /-- `rd A`, after which the program fails if the byte read is not V -/
  | check (a v : Byte)
  deriving DecidableEq, Repr

end Sys2Proof.Machine
end

