-- ==== Sys2Proof/Machine/SelfCheck.lean ====
section
/-! DEFINITION. The table self-check of reset (spec/70_reset_and_hazards.md rule R273). -/

namespace Sys2Proof.Machine

/-- `SelfCheck()`: INV[FWD[x]] = x for every x in 0..255 (R273). It reads only the constant tables (R274). -/
def selfCheck (c : Config) : Bool :=
  allBytes.all fun x => lookup c.tables.rotorI.inv (lookup c.tables.rotorI.fwd x) == x

end Sys2Proof.Machine
end

