-- ==== Sys2Proof/Machine/State.lean ====
section
/-! DEFINITION. The state of the machine as plain data (spec/10_state.md), the reasons a step can stop, and the state after
reset (spec/70_reset_and_hazards.md rule R270, spec/10_state.md rule R44). -/

namespace Sys2Proof.Machine

/-- MODE (R28). The code 11 is never written, so it has no constructor (log 19). -/
inductive Mode where
  | idle
  | enc
  | dec
  deriving DecidableEq, Repr

/-- The results a command can end with (R240). -/
inductive ErrCode where
  | ok
  | invalidKeyLength
  | invalidInputLength
  | noKey
  | sequence
  | badOpcode
  | tableFault
  deriving DecidableEq, Repr

/-- One rotor machine M[i] (R24). Index 0 is the leftmost rotor, 1 the middle one, 2 the rightmost. `plug` is a partial
map held as a list of pairs, the first pair for a byte being the one that counts (log 16); it is empty in this block
(R112). -/
structure RotorMachine where
  rotor : Vector RotorType 3
  pos : Vector Byte 3
  ring : Vector Byte 3
  plug : List (Byte × Byte)
  deriving DecidableEq, Repr

/-- PEND: the latched command and the snapshot of its operands (R31, R67). -/
structure Pend where
  op : Byte
  keylen : Byte
  len : Word32
  keyIn : Block
  blkIn : Block
  deriving DecidableEq, Repr

/-- The host's side of the bus, the MODEL's own: the events still to come, oldest first, in the total order of R74 (log 8),
and the bytes the host's reads have returned, newest first (log 10). -/
structure HostPort where
  pending : List BusEvent
  reads : List Byte
  deriving DecidableEq, Repr

/-- The state of the machine. Every field but `cfg` and `host` is the spec's (10_state.md). -/
structure State where
  /-- the configuration, an argument of the model that no step changes (R41, log 1) -/
  cfg : Config
  /-- KEY (R22) -/
  key : Block
  /-- KEYV (R23) -/
  keyv : Bool
  /-- M[0..15] (R24) -/
  machines : Vector RotorMachine 16
  /-- BUILT (R25) -/
  built : Bool
  /-- SK[0..15] (R26) -/
  sk : Vector Block 16
  /-- PREV (R27) -/
  prev : Block
  /-- MODE (R28) -/
  mode : Mode
  /-- REMAIN (R29) -/
  remain : Word32
  /-- BUSY (R30) -/
  busy : Bool
  /-- PEND (R31) -/
  pend : Pend
  /-- OVR (R32) -/
  ovr : Bool
  /-- TFAULT (R33) -/
  tfault : Bool
  /-- ERR (R34) -/
  err : Byte
  /-- KEYLEN (R35) -/
  keylen : Byte
  /-- LEN (R36) -/
  len : Word32
  /-- KEY_IN (R37) -/
  keyIn : Block
  /-- BLK_IN (R38) -/
  blkIn : Block
  /-- BLK_OUT (R39) -/
  blkOut : Block
  /-- the host's side of the bus (log 8, log 10) -/
  host : HostPort
  deriving DecidableEq, Repr

/-- The reasons the machine can stop with a fault: none. Every command completes, in error or not, and no host access
raises an error (R243, R244), so the type has no constructor (log 21). -/
inductive Fault
  deriving DecidableEq, Repr

/-- The reasons the model gives no meaning. -/
inductive Refusal where
  /-- raised by `exec` for an instruction without a meaning yet; safe: the model stops. No arm raises it now. -/
  | notModelled (mnemonic : String)
  deriving DecidableEq, Repr

/-- The value M[i] holds until a schedule step builds it: R44 leaves it unspecified and no rule reads it
(log 5, DESIGN CHOICE, unsafe). -/
def RotorMachine.unbuilt : RotorMachine where
  rotor := Vector.replicate 3 .I
  pos := Vector.replicate 3 0
  ring := Vector.replicate 3 0
  plug := []

/-- PEND "empty" (R31, R270), as a record of zeros that no rule reads (log 7, DESIGN CHOICE, unsafe). -/
def Pend.empty : Pend where
  op := 0
  keylen := 0
  len := 0
  keyIn := zeroBlock
  blkIn := zeroBlock

/-- `Reset()` of R270 under a configuration, beside a host port, which reset does not touch (log 12). -/
def State.afterReset (cfg : Config) (host : HostPort) : State where
  cfg := cfg
  key := zeroBlock
  keyv := false
  machines := Vector.replicate 16 RotorMachine.unbuilt
  built := false
  sk := Vector.replicate 16 zeroBlock
  prev := zeroBlock
  mode := .idle
  remain := 0
  busy := false
  pend := Pend.empty
  ovr := false
  tfault := !selfCheck cfg
  err := 0
  keylen := 0
  len := 0
  keyIn := zeroBlock
  blkIn := zeroBlock
  blkOut := zeroBlock
  host := host

/-- The machine right after reset (R44, R270), with no bus event placed. -/
def State.reset : State := State.afterReset Config.platform { pending := [], reads := [] }

end Sys2Proof.Machine
end

