-- ==== Sys2Proof/Machine/Rotor.lean ====
section
/-! DEFINITION. The rotor machine (spec/40_rotor_machine.md rules R110-R119). Operations that change a machine return it
beside their result. -/

namespace Sys2Proof.Machine

/-- The table of the rotor at index `i` of a machine (R10, R110). -/
def RotorMachine.tableAt (c : Config) (m : RotorMachine) (i : Fin 3) : RotorTable := c.rotorTable m.rotor[i]

/-- Step 1 of `Advance`: a middle rotor at its notch moves itself and the left rotor (R111). -/
def advanceMiddle (c : Config) (m : RotorMachine) : RotorMachine :=
  if m.pos[1] = (m.tableAt c 1).notch then { m with pos := (m.pos.set 0 (m.pos[0] + 1)).set 1 (m.pos[1] + 1) } else m

/-- Step 2 of `Advance`: a right rotor at its notch moves the middle rotor (R111). -/
def advanceRight (c : Config) (m : RotorMachine) : RotorMachine :=
  if m.pos[2] = (m.tableAt c 2).notch then { m with pos := m.pos.set 1 (m.pos[1] + 1) } else m

/-- `Advance(M)`: the three steps in exactly this order, the last one unconditional (R111). -/
def advance (c : Config) (m : RotorMachine) : RotorMachine :=
  let m2 := advanceRight c (advanceMiddle c m)
  { m2 with pos := m2.pos.set 2 (m2.pos[2] + 1) }

/-- `PlugSubst(M, b)`: the plugboard's value, or `b` itself where it has none (R112). -/
def plugSubst (m : RotorMachine) (b : Byte) : Byte := (m.plug.lookup b).getD b

/-- `Shift(M, i)`: position minus ring setting, mod 256 (R113). -/
def shift (m : RotorMachine) (i : Fin 3) : Byte := m.pos[i] - m.ring[i]

/-- One rotor of the forward pass (R114). -/
def forwardRotor (c : Config) (m : RotorMachine) (b : Byte) (i : Fin 3) : Byte :=
  lookup (m.tableAt c i).fwd (b + shift m i) - shift m i

/-- `ForwardSubst(M, b)`: the rotors right to left (R114). -/
def forwardSubst (c : Config) (m : RotorMachine) (b : Byte) : Byte :=
  ([2, 1, 0] : List (Fin 3)).foldl (forwardRotor c m) b

/-- `Reflect(b)` (R115). -/
def reflect (c : Config) (b : Byte) : Byte := lookup c.tables.refl b

/-- One rotor of the backward pass, through the embedded inverse table (R116). -/
def backwardRotor (c : Config) (m : RotorMachine) (b : Byte) (i : Fin 3) : Byte :=
  lookup (m.tableAt c i).inv (b + shift m i) - shift m i

/-- `BackwardSubst(M, b)`: the rotors left to right (R116). -/
def backwardSubst (c : Config) (m : RotorMachine) (b : Byte) : Byte :=
  ([0, 1, 2] : List (Fin 3)).foldl (backwardRotor c m) b

/-- What a machine at its present positions makes of a byte: plugboard, forward, reflector, backward, plugboard
(R117, after the advance). -/
def substitute (c : Config) (m : RotorMachine) (b : Byte) : Byte :=
  plugSubst m (backwardSubst c m (reflect c (forwardSubst c m (plugSubst m b))))

/-- `EncryptByte(M, b)`: advance, then substitute at the new positions (R117). -/
def encryptByte (c : Config) (m : RotorMachine) (b : Byte) : RotorMachine × Byte :=
  (advance c m, substitute c (advance c m) b)

/-- `RotorInit(p, r)`: three rotors of type I, the given positions and rings, an empty plugboard (R118). -/
def rotorInit (p r : Vector Byte 3) : RotorMachine where
  rotor := Vector.replicate 3 .I
  pos := p
  ring := r
  plug := []

/-- One byte of `RotorEncrypt`: `t[j] <- EncryptByte(M, s[j])` (R119). -/
def rotorEncryptAt (c : Config) {n : Nat} (s : Vector Byte n) (acc : RotorMachine × Vector Byte n) (j : Fin n) :
    RotorMachine × Vector Byte n :=
  match encryptByte c acc.1 s[j] with
  | (m, b) => (m, acc.2.set j b)

/-- `RotorEncrypt(M, s)`: the bytes left to right (R119). -/
def rotorEncrypt (c : Config) {n : Nat} (m : RotorMachine) (s : Vector Byte n) : RotorMachine × Vector Byte n :=
  (List.finRange n).foldl (rotorEncryptAt c s) (m, Vector.replicate n 0)

end Sys2Proof.Machine
end

