-- ==== Sys2Proof/Machine/KeySchedule.lean ====
section
/-! DEFINITION. The key schedule generator (spec/41_key_schedule.md rules R140-R148). -/

namespace Sys2Proof.Machine

/-- SHIFTS[i] (R140). -/
def shiftAmount (c : Config) (i : Fin 16) : Nat := c.tables.shifts[i].toNat

/-- Every byte of a half shifted on its own (R141). -/
def shiftHalf (n : Nat) (h : Half) : Half := Vector.ofFn fun j => shl8 h[j] n

/-- `ShiftedHalves(i, c)` (R141). -/
def shiftedHalves (c : Config) (i : Fin 16) (v : Block) : Half × Half :=
  (shiftHalf (shiftAmount c i) (leftHalf v), shiftHalf (shiftAmount c i) (rightHalf v))

/-- Bytes 0-2 of a half, byte `j` for rotor `j` (R142). -/
def firstThree (h : Half) : Vector Byte 3 := Vector.ofFn fun j => h[j.val]

/-- `MachineParams(i, c)`: the start positions and the ring settings, by POS_SRC (R142). -/
def machineParams (c : Config) (i : Fin 16) (v : Block) : Vector Byte 3 × Vector Byte 3 :=
  match c.posSrc with
  | .left => (firstThree (shiftedHalves c i v).1, firstThree (shiftedHalves c i v).2)
  | .right => (firstThree (shiftedHalves c i v).2, firstThree (shiftedHalves c i v).1)

/-- `BuildMachine(i, c)` (R143). -/
def buildMachine (c : Config) (i : Fin 16) (v : Block) : RotorMachine :=
  rotorInit (machineParams c i v).1 (machineParams c i v).2

/-- What the schedule step writes: the rotor machines M and the subkeys SK (R145). -/
structure RotorFile where
  machines : Vector RotorMachine 16
  sk : Vector Block 16
  deriving DecidableEq, Repr

/-- A rotor file with machine and subkey `i` replaced. -/
def RotorFile.put (f : RotorFile) (i : Fin 16) (m : RotorMachine) (k : Block) : RotorFile where
  machines := f.machines.set i m
  sk := f.sk.set i k

/-- The machine that round `i` of the chain runs: a new one in the first block of an instance, else the cached one
(R144, R145). -/
def roundMachine (c : Config) (first : Bool) (f : RotorFile) (v : Block) (i : Fin 16) : RotorMachine :=
  if first then buildMachine c i v else f.machines[i]

/-- One round of the chain: the un-shifted current value goes through the round's machine and becomes the round's subkey,
from which the next round starts (R145, R146). -/
def chainRound (c : Config) (first : Bool) (acc : RotorFile × Block) (i : Fin 16) : RotorFile × Block :=
  match rotorEncrypt c (roundMachine c first acc.1 acc.2 i) acc.2 with
  | (m, v) => (acc.1.put i m v, v)

/-- The schedule of one block under SCHED_REFRESH = CHAIN, in forward order 0..15 from KEY (R145). -/
def chainSchedule (c : Config) (key : Block) (first : Bool) (f : RotorFile) : RotorFile :=
  ((List.finRange 16).foldl (chainRound c first) (f, key)).1

/-- One round of the refresh under SELF: the subkey goes once more through its own machine (R145). -/
def selfRound (c : Config) (f : RotorFile) (i : Fin 16) : RotorFile :=
  match rotorEncrypt c f.machines[i] f.sk[i] with
  | (m, k) => f.put i m k

/-- The schedule of one block under SCHED_REFRESH = SELF: the chain that builds the machines in the first block, then the
refresh of every subkey (R145). -/
def selfSchedule (c : Config) (key : Block) (first : Bool) (f : RotorFile) : RotorFile :=
  (List.finRange 16).foldl (selfRound c) (if first then chainSchedule c key true f else f)

/-- The schedule of one block, by SCHED_REFRESH (R12, R145). -/
def schedule (c : Config) (key : Block) (first : Bool) (f : RotorFile) : RotorFile :=
  match c.schedRefresh with
  | .chain => chainSchedule c key first f
  | .self => selfSchedule c key first f

/-- The rotor file of a state. -/
def State.rotorFile (s : State) : RotorFile := { machines := s.machines, sk := s.sk }

/-- `ScheduleStep()`: writes M, SK and BUILT (R145). The same in both directions (R147). -/
def State.scheduleStep (s : State) : State :=
  match schedule s.cfg s.key (!s.built) s.rotorFile with
  | f => { s with machines := f.machines, sk := f.sk, built := true }

end Sys2Proof.Machine
end

