-- ==== Sys2Proof/Machine/Operands.lean ====
section
/-! DEFINITION. The operands of the commands (spec/30_encoding.md rule R91): every one is read from the snapshot PEND, never
from the live registers (spec/10_state.md rule R31). -/

namespace Sys2Proof.Machine

/-- keylen: PEND.keylen (R91). -/
def State.keylenOperand (s : State) : Byte := s.pend.keylen

/-- len: PEND.len (R91). -/
def State.lenOperand (s : State) : Word32 := s.pend.len

/-- key: PEND.key_in[0..15] (R91). -/
def State.keyOperand (s : State) : Block := s.pend.keyIn

/-- blk: PEND.blk_in[0..15] (R91). -/
def State.blkOperand (s : State) : Block := s.pend.blkIn

/-- The first `n` bytes of a block, 0x00 in the rest: the zero padding of ENC_BLOCK (R206). -/
def padBlock (n : Nat) (b : Block) : Block := Vector.ofFn fun j => if j.val < n then b[j] else 0

/-- The number of bytes of real plaintext in the next block: min(16, REMAIN) (R206). -/
def State.plainBytes (s : State) : Nat := min 16 s.remain.toNat

/-- The plaintext block of ENC_BLOCK: the operand, zero padded past the session's last byte (R206). -/
def State.plainBlock (s : State) : Block := padBlock s.plainBytes s.blkOperand

end Sys2Proof.Machine
end

