-- ==== Sys2Proof/Machine/Flags.lean ====
section
/-! DEFINITION. Error codes, mode bits and the STATUS register (spec/10_state.md rules R28, R34, R40, spec/60_exceptions.md
rule R240). -/

namespace Sys2Proof.Machine

/-- The code a result writes into ERR (R240). -/
def ErrCode.code : ErrCode → Byte
  | .ok => 0x00
  | .invalidKeyLength => 0x01
  | .invalidInputLength => 0x02
  | .noKey => 0x03
  | .sequence => 0x04
  | .badOpcode => 0x05
  | .tableFault => 0x06

/-- MODE as the host reads it at STATUS bits 4:3 (R28, R40). -/
def Mode.bits : Mode → BitVec 2
  | .idle => 0b00
  | .enc => 0b01
  | .dec => 0b10

/-- ERRF: ERR is not 0x00 (R40, R43(f)). -/
def State.errf (s : State) : Bool := s.err != 0

/-- STATUS: from bit 7 down, ERRF, OVR, TFAULT, MODE (two bits), BUILT, KEYV, BUSY (R40). -/
def State.status (s : State) : Byte :=
  (BitVec.ofBool s.errf ++ BitVec.ofBool s.ovr ++ BitVec.ofBool s.tfault ++ s.mode.bits ++ BitVec.ofBool s.built ++
    BitVec.ofBool s.keyv ++ BitVec.ofBool s.busy : BitVec 8)

end Sys2Proof.Machine
end

