-- ==== Sys2Proof/Machine/RegisterMap.lean ====
section
/-! DEFINITION. The register map (spec/20_memory.md rules R62, R64, R72): which register stands at an address, and where a
register stands. -/

namespace Sys2Proof.Machine

/-- The register at an address (R62). Every address has one; the rest of the map is reserved (R64). -/
def regAt (a : Byte) : Reg :=
  let n := a.toNat
  if n = 0x00 then .cmd
  else if n = 0x01 then .status
  else if n = 0x02 then .err
  else if n = 0x03 then .keylen
  else if n < 0x08 then .len (Fin.ofNat 4 (n - 0x04))
  else if n < 0x0C then .remain (Fin.ofNat 4 (n - 0x08))
  else if n < 0x10 then .reserved a
  else if n < 0x20 then .keyIn (Fin.ofNat 16 (n - 0x10))
  else if n < 0x30 then .blkIn (Fin.ofNat 16 (n - 0x20))
  else if n < 0x40 then .blkOut (Fin.ofNat 16 (n - 0x30))
  else .reserved a

/-- The address a register name stands for (R62, R96). -/
def Reg.address : Reg → Byte
  | .cmd => 0x00
  | .status => 0x01
  | .err => 0x02
  | .keylen => 0x03
  | .len i => BitVec.ofNat 8 (0x04 + i.val)
  | .remain i => BitVec.ofNat 8 (0x08 + i.val)
  | .keyIn i => BitVec.ofNat 8 (0x10 + i.val)
  | .blkIn i => BitVec.ofNat 8 (0x20 + i.val)
  | .blkOut i => BitVec.ofNat 8 (0x30 + i.val)
  | .reserved a => a

/-- Where a register address lies in the larger system: an offset from BASE (R72, log 15). -/
def systemAddress (a : Byte) : Nat := Config.base + a.toNat

end Sys2Proof.Machine
end

