-- ==== Sys2Proof/Machine/Ops.lean ====
section
/-! DEFINITION. The named operations over the registers: host reads and writes (spec/20_memory.md rules R60-R67), the end of a
command in success or in error (spec/44_commands.md rule R200, spec/60_exceptions.md rules R243, R248), the end of a session
(R211). -/

namespace Sys2Proof.Machine

/-- `RegRead(a)`: the byte at an address (R60, R62-R64). It returns a byte and no state: reads have no side effects (R65). -/
def State.regRead (s : State) (a : Byte) : Byte :=
  match regAt a with
  | .cmd => 0
  | .status => s.status
  | .err => s.err
  | .keylen => s.keylen
  | .len i => counterByte s.len i
  | .remain i => counterByte s.remain i
  | .keyIn i => s.keyIn[i]
  | .blkIn i => s.blkIn[i]
  | .blkOut i => s.blkOut[i]
  | .reserved _ => 0

/-- The snapshot a CMD write of `op` takes of the operand registers (R31, R67). -/
def State.snapshot (s : State) (op : Byte) : Pend where
  op := op
  keylen := s.keylen
  len := s.len
  keyIn := s.keyIn
  blkIn := s.blkIn

/-- A command latched: PEND and BUSY written (R67). -/
def State.latch (s : State) (op : Byte) : State := { s with pend := s.snapshot op, busy := true }

/-- A write to CMD: latches the command, or is dropped with OVR set while BUSY = 1 (R67). -/
def State.writeCmd (s : State) (v : Byte) : State := if s.busy then { s with ovr := true } else s.latch v

/-- A write to STATUS: clears OVR when bit 6 of the written byte is 1 (R40, R66). -/
def State.writeStatus (s : State) (v : Byte) : State := if v.getLsbD 6 then { s with ovr := false } else s

/-- `RegWrite(a, v)` (R60, R64, R66). -/
def State.regWrite (s : State) (a v : Byte) : State :=
  match regAt a with
  | .cmd => s.writeCmd v
  | .status => s.writeStatus v
  | .err => s
  | .keylen => { s with keylen := v }
  | .len i => { s with len := setCounterByte s.len i v }
  | .remain _ => s
  | .keyIn i => { s with keyIn := s.keyIn.set i v }
  | .blkIn i => { s with blkIn := s.blkIn.set i v }
  | .blkOut _ => s
  | .reserved _ => s

/-- The end of a successful command: ERR <- 0x00, BUSY <- 0 (R200). -/
def State.complete (s : State) : State := { s with err := ErrCode.ok.code, busy := false }

/-- `raise Error(code)`, the block's whole exception entry: ERR <- code, BUSY <- 0, nothing else changed (R243, R248). There
is no return from it: no trap return exists (R249). -/
def State.raiseError (s : State) (e : ErrCode) : State := { s with err := e.code, busy := false }

/-- `EndSession()` (R211). -/
def State.endSession (s : State) : State := { s with mode := .idle, remain := 0, prev := zeroBlock }

/-- The opening of a session of `n` bytes: PREV <- the zero IV, REMAIN, MODE (R204, R207). -/
def State.beginSession (s : State) (m : Mode) (n : Word32) : State :=
  { s with prev := zeroBlock, remain := n, mode := m }

/-- The end of a block command: the output block, the next chaining value, the bytes left, and the end of the session where
none is left (R206, R209). -/
def State.finishBlock (s : State) (out prev : Block) (n : Nat) : State :=
  let s' := { s with blkOut := out, prev := prev, remain := s.remain - BitVec.ofNat 32 n }
  if s'.remain = 0 then s'.endSession else s'

/-- What the engine does with an illegal byte: TABLE_FAULT comes before BAD_OPCODE (R93, R94, R246). -/
def State.illegalCommand (s : State) : State :=
  if s.tfault then s.raiseError .tableFault else s.raiseError .badOpcode

end Sys2Proof.Machine
end

