-- ==== Sys2Proof/Machine/Decrypt.lean ====
section
/-! DEFINITION. The commands of a decrypt session: DEC_BEGIN and DEC_BLOCK (spec/44_commands.md rules R207-R209, R212). -/

namespace Sys2Proof.Machine

/-- DEC_BEGIN (R207). A length that is not a multiple of 16 is refused before any block (R208). -/
def execDecBegin (s : State) : Host.Outcome State Fault Refusal :=
  .next <|
    if s.tfault then s.raiseError .tableFault
    else if s.mode ≠ .idle then s.raiseError .sequence
    else if s.keyv = false then s.raiseError .noKey
    else if s.lenOperand.toNat % 16 ≠ 0 then s.raiseError .invalidInputLength
    else if s.lenOperand = 0 then s.complete
    else (s.beginSession .dec s.lenOperand).complete

/-- The work of one decrypt block, after its checks: run the schedule step, run the Feistel engine backward, unchain. PREV
becomes the raw ciphertext, not the output (R209). In a state no run reaches, with fewer than 16 bytes left, REMAIN - 16
wraps mod 2^32 (log 17). -/
def State.decryptBlock (s : State) : State :=
  let s' := s.scheduleStep
  let out := xorBytes (feistelDec s.cfg s.blkOperand s'.sk) s.prev
  s'.finishBlock out s.blkOperand 16

/-- DEC_BLOCK (R209). -/
def execDecBlock (s : State) : Host.Outcome State Fault Refusal :=
  .next <|
    if s.tfault then s.raiseError .tableFault
    else if s.mode ≠ .dec then s.raiseError .sequence
    else s.decryptBlock.complete

end Sys2Proof.Machine
end

