-- ==== Sys2Proof/Machine/Encrypt.lean ====
section
/-! DEFINITION. The commands of an encrypt session: ENC_BEGIN and ENC_BLOCK (spec/44_commands.md rules R204, R206, R212). -/

namespace Sys2Proof.Machine

/-- ENC_BEGIN (R204). An empty plaintext opens no session (R212). -/
def execEncBegin (s : State) : Host.Outcome State Fault Refusal :=
  .next <|
    if s.tfault then s.raiseError .tableFault
    else if s.mode ≠ .idle then s.raiseError .sequence
    else if s.keyv = false then s.raiseError .noKey
    else if s.lenOperand = 0 then s.complete
    else (s.beginSession .enc s.lenOperand).complete

/-- The work of one encrypt block, after its checks: pad, run the schedule step, chain, run the Feistel engine forward
(R206). -/
def State.encryptBlock (s : State) : State :=
  let s' := s.scheduleStep
  let out := feistelEnc s.cfg (xorBytes s.plainBlock s.prev) s'.sk
  s'.finishBlock out out s.plainBytes

/-- ENC_BLOCK (R206). -/
def execEncBlock (s : State) : Host.Outcome State Fault Refusal :=
  .next <|
    if s.tfault then s.raiseError .tableFault
    else if s.mode ≠ .enc then s.raiseError .sequence
    else s.encryptBlock.complete

end Sys2Proof.Machine
end

