-- ==== Sys2Proof/Machine/Management.lean ====
section
/-! DEFINITION. The commands that manage the block: NOP, LOADKEY and END (spec/44_commands.md rules R202, R203, R210, R223). -/

namespace Sys2Proof.Machine

/-- NOP (R202). -/
def execNop (s : State) : Host.Outcome State Fault Refusal :=
  .next <|
    if s.tfault then s.raiseError .tableFault
    else s.complete

/-- A fresh instance with the operand key: KEY, KEYV, BUILT (R203). M and SK keep their contents, which nothing reads until
the next schedule step writes them (log 13). -/
def State.loadKey (s : State) : State := { s with key := s.keyOperand, keyv := true, built := false }

/-- LOADKEY (R203). -/
def execLoadKey (s : State) : Host.Outcome State Fault Refusal :=
  .next <|
    if s.tfault then s.raiseError .tableFault
    else if s.mode ≠ .idle then s.raiseError .sequence
    else if s.keylenOperand ≠ 16 then s.raiseError .invalidKeyLength
    else s.loadKey.complete

/-- END (R210). -/
def execEnd (s : State) : Host.Outcome State Fault Refusal :=
  .next <|
    if s.tfault then s.raiseError .tableFault
    else s.endSession.complete

end Sys2Proof.Machine
end

