-- ==== Sys2Proof/Machine/Dispatch.lean ====
section
/-! DEFINITION. Execute(PEND) for a legal command (spec/44_commands.md rule R200): one arm per command. -/

namespace Sys2Proof.Machine

def exec (i : Instr) (s : State) : Host.Outcome State Fault Refusal :=
  match i with
  | .nop => Sys2Proof.Machine.execNop s
  | .loadKey => Sys2Proof.Machine.execLoadKey s
  | .encBegin => Sys2Proof.Machine.execEncBegin s
  | .encBlock => Sys2Proof.Machine.execEncBlock s
  | .decBegin => Sys2Proof.Machine.execDecBegin s
  | .decBlock => Sys2Proof.Machine.execDecBlock s
  | .endSession => Sys2Proof.Machine.execEnd s

end Sys2Proof.Machine
end

