-- ==== Sys2Proof/Machine/Engine.lean ====
section
/-! DEFINITION. The engine step (spec/44_commands.md rule R200), the host's accesses and reset as bus events
(spec/20_memory.md rule R74, spec/70_reset_and_hazards.md rule R270). -/

namespace Sys2Proof.Machine

/-- `EngineStep()`: enabled iff BUSY = 1. It executes the command in PEND, legal or not (R93, R200); with BUSY = 0 the block
holds its state (R255). -/
def engineStep (s : State) : Host.Outcome State Fault Refusal :=
  if s.busy then
    match decode s.pend.op with
    | .ok i => exec i s
    | .error _ => .next s.illegalCommand
  else .next s

/-- A host read: the byte goes to the host, and nothing else changes (R60, R65, log 10). -/
def State.hostRead (s : State) (a : Byte) : State :=
  { s with host := { s.host with reads := s.regRead a :: s.host.reads } }

/-- One bus event, on the state from which it has been taken (R74). -/
def State.serve (s : State) (e : BusEvent) : Host.Outcome State Fault Refusal :=
  match e with
  | .read a => .next (s.hostRead a)
  | .write a v => .next (s.regWrite a v)
  | .engine => engineStep s
  | .reset => .next (State.afterReset s.cfg s.host)

/-- A state with its still-to-come events replaced. -/
def State.withPending (s : State) (l : List BusEvent) : State := { s with host := { s.host with pending := l } }

/-- One element of the total order of R74: the oldest event still to come. With none left, the engine has its turn, which is
the fairness of R200 (log 9). -/
def State.busStep (s : State) : Host.Outcome State Fault Refusal :=
  match s.host.pending with
  | [] => engineStep s
  | e :: rest => (s.withPending rest).serve e

/-- The command byte `v` latched with the present operand registers, and the engine's turn placed next: what it takes for the
very next step to run the command (log 11). -/
def State.armCommand (s : State) (v : Byte) : State := (s.latch v).withPending (.engine :: s.host.pending)

end Sys2Proof.Machine
end

