-- ==== Sys2Proof/Machine/Step.lean ====
section
/-! DEFINITION. One step of the machine, and the placing of a command where the next step takes it. -/

namespace Sys2Proof.Machine

/-- One step: one element of the total order of host accesses, engine steps and resets (20_memory.md R74). -/
def step (s : State) : Host.Outcome State Fault Refusal := s.busStep

/-- The command of an opcode-table word, latched so that the very next step runs it (log 11). -/
def State.withFetchWord (s : State) (nbits w : Nat) : State := s.armCommand (Sys2Proof.commandByte nbits w)

end Sys2Proof.Machine
end

