-- ==== Sys2Proof/Machine/HostAssembly.lean ====
section
/-! DEFINITION. The host assembly (spec/30_encoding.md rules R96-R98): the trace encoding of bus transactions, the expansion of
the pseudo-statements, and the canonical expansions of the source's three calls. HostPrograms.lean runs what they expand to. -/

namespace Sys2Proof.Machine

/-- The record of a transaction: `W A V` is 0x57, A, V and `R A` is 0x52, A (R96). -/
def Transaction.record : Transaction → List Byte
  | .wr a v => [0x57, a, v]
  | .rd a => [0x52, a]

/-- The record stream of a list of transactions (R96). -/
def recordStream (l : List Transaction) : List Byte := l.flatMap Transaction.record

/-- A record stream read back; none where it is no stream of whole records (R96). -/
def parseRecords : List Byte → Option (List Transaction)
  | [] => some []
  | [_] => none
  | [k, a] => if k = 0x52 then some [.rd a] else none
  | k :: a :: v :: rest =>
    if k = 0x57 then (parseRecords rest).map (Transaction.wr a v :: ·)
    else if k = 0x52 then (parseRecords (v :: rest)).map (Transaction.rd a :: ·)
    else none

/-- A transaction as a bus event (R60). -/
def Transaction.event : Transaction → BusEvent
  | .wr a v => .write a v
  | .rd a => .read a

/-- The transaction a bus event records; the engine's turn and reset are no transactions (R96). -/
def BusEvent.transaction? : BusEvent → Option Transaction
  | .read a => some (.rd a)
  | .write a v => some (.wr a v)
  | .engine => none
  | .reset => none

/-- Byte `i` of a number written little-endian (R63, R97). -/
def lenByte (n : Nat) (i : Fin 4) : Byte := BitVec.ofNat 8 (n >>> (8 * i.val))

/-- The base statement `wr A, V`, the address named by its register (R96). -/
def wrAction (r : Reg) (v : Byte) : HostAction := .bus (.wr r.address v)

/-- The base statement `rd A`, the address named by its register (R96). -/
def rdAction (r : Reg) : HostAction := .bus (.rd r.address)

/-- The expansion of a statement (R96, R97). `run MNEM` is `cmd MNEM` and then `wait`. -/
def HostStmt.expand : HostStmt → List HostAction
  | .wr a v => [.bus (.wr a v)]
  | .rd a => [.bus (.rd a)]
  | .cmd i => [wrAction .cmd (encode i)]
  | .wait => [.pollStatus]
  | .setlen n => (List.finRange 4).map fun i => wrAction (.len i) (lenByte n i)
  | .putkey k => (List.finRange 16).map fun i => wrAction (.keyIn i) k[i]
  | .putblk b => (List.finRange 16).map fun i => wrAction (.blkIn i) b[i]
  | .getblk => (List.finRange 16).map fun i => rdAction (.blkOut i)
  | .expect a v => [.check a v]
  | .run i => [wrAction .cmd (encode i), .pollStatus]

/-- A host program expanded (R96, R97). -/
def expandProgram (l : List HostStmt) : List HostAction := l.flatMap HostStmt.expand

/-- The number of 16-byte blocks of a buffer of `n` bytes: ceil(n / 16) (R98). -/
def blockCount (n : Nat) : Nat := (n + 15) / 16

/-- Block `j` of a buffer: bytes 16j..16j+15 (R69, R98). Past the buffer's end any bytes may stand; these are zeros
(log 22). -/
def bufferBlock (p : List Byte) (j : Nat) : Block := Vector.ofFn fun i => p.getD (16 * j + i.val) 0

/-- The blocks of a buffer, in order. -/
def bufferBlocks (p : List Byte) : List Block := (List.range (blockCount p.length)).map (bufferBlock p)

/-- The constructor `Cipher(k)`: the key bytes presented, `n` being the length the host gives, as the byte KEYLEN holds
(R98, log 23). -/
def constructorProgram (k : Block) (n : Byte) : List HostStmt :=
  [.putkey k, .wr (Reg.address .keylen) n, .run .loadKey]

/-- The statements that pass blocks one at a time (R98). -/
def blockProgram (i : Instr) (bs : List Block) : List HostStmt := bs.flatMap fun b => [.putblk b, .run i, .getblk]

/-- `encrypt(p)` (R98). A buffer of 2^32 bytes or more, which the host is to split (R7, D32), is not split here: `setlen` writes
its length mod 2^32 and all its blocks follow in one call, the model's choice (log 26, DESIGN CHOICE). -/
def encryptProgram (p : List Byte) : List HostStmt :=
  [.setlen p.length, .run .encBegin] ++ blockProgram .encBlock (bufferBlocks p)

/-- The whole blocks of a buffer, len / 16 of them rounded down. -/
def wholeBlocks (c : List Byte) : List Block := (List.range (c.length / 16)).map (bufferBlock c)

/-- `decrypt(c)` (R98). R98 and R214 give its blocks for a length that 16 divides. For another length the division rounds down
here, the bytes past the last whole block are not passed, and the block commands follow the refused DEC_BEGIN all the same: the
model's choice (log 25, DESIGN CHOICE). A buffer of 2^32 bytes or more is not split, as for encrypt (log 26, DESIGN CHOICE). -/
def decryptProgram (c : List Byte) : List HostStmt :=
  [.setlen c.length, .run .decBegin] ++ blockProgram .decBlock (wholeBlocks c)

end Sys2Proof.Machine
end

