-- ==== Sys2Proof/Machine/HostPrograms.lean ====
section
/-! DEFINITION. Running a host program on the machine (spec/30_encoding.md rule R97): its base statements as steps of the
machine, the loop of `wait`, the failure of `expect`. The schedule says where the engine has its turn (spec/20_memory.md rule
R74): one entry for each access of the host, true where the turn comes before it; when the entries are used up the turn comes
before every access, which is the fairness of R200 (log 18). -/

namespace Sys2Proof.Machine

/-- The next state of an outcome, where there is one. -/
def nextState? {φ ρ : Type} : Host.Outcome State φ ρ → Option State
  | .next s => some s
  | .fault _ => none
  | .refused _ => none

/-- One step of the machine on a bus event that comes before all others. -/
def State.offer (s : State) (e : BusEvent) : Option State := nextState? (step (s.withPending (e :: s.host.pending)))

/-- A bus transaction, with the engine's turn before it where the schedule has one (R74). -/
def State.access (s : State) (turn : Bool) (t : Transaction) : Option State :=
  match (if turn then s.offer .engine else some s) with
  | none => none
  | some u => u.offer t.event

/-- The byte the host's last read returned. -/
def State.lastRead (s : State) : Byte := s.host.reads.headD 0

/-- `wait`: `rd STATUS` until bit 0 of the byte read is 0, and the schedule that is left (R97). None where a step gives no next
state, or where the loop has not ended with the schedule used up; neither happens, since a turn of the engine clears BUSY. -/
def State.pollUntilIdle : List Bool → State → Option (State × List Bool)
  | [], s =>
    match s.access true (.rd (Reg.address .status)) with
    | none => none
    | some u => if u.lastRead.getLsbD 0 then none else some (u, [])
  | turn :: rest, s =>
    match s.access turn (.rd (Reg.address .status)) with
    | none => none
    | some u => if u.lastRead.getLsbD 0 then State.pollUntilIdle rest u else some (u, rest)

/-- How a host program ends. -/
inductive ProgramEnd where
  /-- every statement has run -/
  | finished (s : State)
  /-- an `expect` has read another byte than its own (R97), and the state it was read in; nothing after it has run (log 27) -/
  | failed (s : State)
  /-- the machine gave no next state; no program of this block ends so -/
  | stopped
  deriving DecidableEq, Repr

/-- The actions of a program run in order under a schedule. At an `expect` that reads another byte the program fails (R97); that
the actions after it are not run is the model's choice (log 27, DESIGN CHOICE). -/
def runActions : List HostAction → List Bool → State → ProgramEnd
  | [], _, s => .finished s
  | .bus t :: rest, q, s =>
    match s.access (q.headD true) t with
    | none => .stopped
    | some u => runActions rest q.tail u
  | .pollStatus :: rest, q, s =>
    match s.pollUntilIdle q with
    | none => .stopped
    | some (u, q') => runActions rest q' u
  | .check a v :: rest, q, s =>
    match s.access (q.headD true) (.rd a) with
    | none => .stopped
    | some u => if u.lastRead = v then runActions rest q.tail u else .failed u

/-- A host program run under a schedule (R96, R97). -/
def runProgram (q : List Bool) (l : List HostStmt) (s : State) : ProgramEnd := runActions (expandProgram l) q s

end Sys2Proof.Machine
end

