-- ==== Sys2Proof/Machine/Sessions.lean ====
section
/-! DEFINITION. Whole calls as command sequences (spec/44_commands.md rules R213-R218): the host's register accesses and the
engine steps between them, composed into the three calls of the source, and the chaining they carry out. Each
command's engine step comes right after its CMD write (log 24, DESIGN CHOICE). -/

namespace Sys2Proof.Machine

/-- The host writes CMD and the engine executes the command (R67, R200). -/
def State.issue (s : State) (i : Instr) : Option State :=
  nextState? (engineStep (s.regWrite (Reg.address .cmd) (encode i)))

/-- `setlen n`: the four LEN bytes written in order (R97). -/
def State.putLen (s : State) (n : Nat) : State :=
  (List.finRange 4).foldl (fun s i => s.regWrite (Reg.address (.len i)) (lenByte n i)) s

/-- `putkey`: the sixteen KEY_IN bytes written in order (R97). -/
def State.putKey (s : State) (k : Block) : State :=
  (List.finRange 16).foldl (fun s i => s.regWrite (Reg.address (.keyIn i)) k[i]) s

/-- `putblk`: the sixteen BLK_IN bytes written in order (R97). -/
def State.putBlk (s : State) (b : Block) : State :=
  (List.finRange 16).foldl (fun s i => s.regWrite (Reg.address (.blkIn i)) b[i]) s

/-- `getblk`: the sixteen BLK_OUT bytes read in order (R97). -/
def State.getBlk (s : State) : Block := Vector.ofFn fun i => s.regRead (Reg.address (.blkOut i))

/-- The constructor `Cipher(k)` with a 16-byte key: KEY_IN and KEYLEN written, LOADKEY run (R98). -/
def State.construct (s : State) (k : Block) : Option State :=
  ((s.putKey k).regWrite (Reg.address .keylen) 16).issue .loadKey

/-- The block commands of a session: each block put, the command run, the output block read (R98). -/
def State.passBlocks (i : Instr) : State → List Block → Option (State × List Block)
  | s, [] => some (s, [])
  | s, b :: bs =>
    match (s.putBlk b).issue i with
    | none => none
    | some s' =>
      match State.passBlocks i s' bs with
      | none => none
      | some (t, os) => some (t, s'.getBlk :: os)

/-- A whole call: LEN written, the BEGIN command run, then the block commands (R98, R213, R214). A
length of 2^32 or more is written mod 2^32, with all the blocks in the one call (log 26, DESIGN CHOICE). -/
def State.call (s : State) (start block : Instr) (n : Nat) (bs : List Block) : Option (State × List Block) :=
  match (s.putLen n).issue start with
  | none => none
  | some s' => State.passBlocks block s' bs

/-- `encrypt(p)` (R213); from 2^32 bytes on, log 26. -/
def State.encryptCall (s : State) (p : List Byte) : Option (State × List Block) :=
  s.call .encBegin .encBlock p.length (bufferBlocks p)

/-- `decrypt(c)` of a ciphertext given as its blocks (R214); from 2^32 bytes on, log 26. -/
def State.decryptCall (s : State) (c : List Block) : Option (State × List Block) :=
  s.call .decBegin .decBlock (16 * c.length) c

/-- The instance's part of a state that the schedule step reads and writes: the rotor file and BUILT (R145). -/
structure Instance where
  file : RotorFile
  built : Bool
  deriving DecidableEq, Repr

/-- The instance of a state. -/
def State.inst (s : State) : Instance := { file := s.rotorFile, built := s.built }

/-- One schedule step of an instance (R145). -/
def Instance.tick (c : Config) (key : Block) (x : Instance) : Instance where
  file := schedule c key (!x.built) x.file
  built := true

/-- The chaining of encryption, block for block: the recurrence of R213. -/
def cbcEncrypt (c : Config) (key : Block) : Instance → Block → List Block → List Block
  | _, _, [] => []
  | x, prev, p :: ps =>
    let x' := x.tick c key
    let o := feistelEnc c (xorBytes p prev) x'.file.sk
    o :: cbcEncrypt c key x' o ps

/-- The chaining of decryption, block for block: the recurrence of R214. -/
def cbcDecrypt (c : Config) (key : Block) : Instance → Block → List Block → List Block
  | _, _, [] => []
  | x, prev, b :: bs =>
    let x' := x.tick c key
    xorBytes (feistelDec c b x'.file.sk) prev :: cbcDecrypt c key x' b bs

/-- The instance after `n` schedule steps (R148). -/
def Instance.ticks (c : Config) (key : Block) (x : Instance) : Nat → Instance
  | 0 => x
  | n + 1 => (x.tick c key).ticks c key n

end Sys2Proof.Machine
end

