-- ==== Sys2Proof/Safety.lean ====
section
/-! DEFINITION. What counts as a good state and a good run, in the terms the claims use (spec/10_state.md rule R43,
spec/60_exceptions.md rules R240, R244). -/

namespace Sys2Proof.Machine

/-- The invariants that the rules preserve (R43 (a)-(e), R112, R240, R274). -/
structure State.Inv (s : State) : Prop where
  /-- R43(a) -/
  idle : s.mode = .idle → s.remain = 0 ∧ s.prev = zeroBlock
  /-- R43(b) -/
  built_keyv : s.built = true → s.keyv = true
  /-- R43(c) -/
  session : s.mode ≠ .idle → s.keyv = true ∧ 0 < s.remain.toNat
  /-- R43(d) -/
  dec_aligned : s.mode = .dec → s.remain.toNat % 16 = 0
  /-- R43(e) -/
  tfault_dead : s.tfault = true → s.built = false ∧ s.keyv = false ∧ s.mode = .idle
  /-- R43(f) -/
  errf : s.status.getLsbD 7 = true ↔ s.err ≠ 0
  /-- R240: 0x07-0xFF are never written to ERR -/
  err_code : s.err.toNat ≤ 6
  /-- R274: TFAULT is the constant `not SelfCheck()` of the configuration -/
  tfault_const : s.tfault = !selfCheck s.cfg
  /-- R112, R118: every machine has an empty plugboard -/
  plugs_empty : ∀ i : Fin 16, s.machines[i].plug = []

/-- The block is ready for a command and can run it: no command latched, no table fault. -/
def State.Ready (s : State) : Prop := s.busy = false ∧ s.tfault = false

/-- The states agree on everything the rules let any later read depend on. They may differ in M and SK while no machine is
built (R24, R26), and in PEND while no command is latched (R31): the elements whose reset values R44 leaves open. -/
structure State.Agree (s t : State) : Prop where
  machines : s.built = true → t.machines = s.machines
  sk : s.built = true → t.sk = s.sk
  pend : s.busy = true → t.pend = s.pend
  rest : t = { s with machines := t.machines, sk := t.sk, pend := t.pend }

/-- A run of `n` steps that neither faults nor is refused, and where it ends. -/
def RunsTo (n : Nat) (s t : State) : Prop := Host.Core.run Sys2Proof.core n s = .next t

end Sys2Proof.Machine
end

