-- ==== Sys2Proof/WellFormed.lean ====
section
/-! DEFINITION. The well-formedness of a configuration (spec/00_scope.md rule R9, spec/93_implementation_defined.md I4): a
configuration offered as plain numbers is loaded, or refused by name. Commands have no operand fields, so every `Instr`
is well formed and needs no check. -/

namespace Sys2Proof

/-- A configuration as a platform would offer it: plain numbers, of any shape. -/
structure RawTables where
  fwd : List Nat
  inv : List Nat
  notch : Nat
  refl : List Nat
  exp : List Nat
  sbox : List (List (List Nat))
  shifts : List Nat
  deriving DecidableEq, Repr

/-- A configuration offered as numbers satisfies R9 and has the shapes R8 gives it. -/
structure RawTables.WellFormed (r : RawTables) : Prop where
  /-- R8: 256 bytes each -/
  fwd_bytes : r.fwd.length = 256 ∧ ∀ x ∈ r.fwd, x < 256
  inv_bytes : r.inv.length = 256 ∧ ∀ x ∈ r.inv, x < 256
  refl_bytes : r.refl.length = 256 ∧ ∀ x ∈ r.refl, x < 256
  notch_byte : r.notch < 256
  /-- R9(a) -/
  fwd_permutation : r.fwd.Nodup
  /-- R9(b) -/
  refl_involution : ∀ x < 256, r.refl.getD (r.refl.getD x 0) 0 = x
  /-- R9(c) -/
  exp_range : r.exp.length = 128 ∧ ∀ x ∈ r.exp, x < 64
  /-- R9(d) -/
  shifts_range : r.shifts.length = 16 ∧ ∀ x ∈ r.shifts, x = 1 ∨ x = 2
  /-- R8, R9(e) -/
  sbox_bytes : r.sbox.length = 8 ∧ ∀ box ∈ r.sbox, box.length = 2 ∧ ∀ row ∈ box, row.length = 16 ∧ ∀ x ∈ row, x < 256

/-- Why a configuration is refused. Refusing is safe: no machine runs. -/
inductive ConfigRefusal where
  /-- FWD, INV, NOTCH or REFL is not of the shape R8 gives it, or holds a number that is not a byte -/
  | rotorTablesNotBytes
  /-- R9(a) -/
  | fwdNotPermutation
  /-- R9(b) -/
  | reflNotInvolution
  /-- R9(c): EXP has not 128 entries, or one is not in 0..63 -/
  | expOutOfRange
  /-- R9(d): SHIFTS has not 16 entries, or one is not 1 or 2 -/
  | shiftsOutOfRange
  /-- R9(e): SBOX is not 8 boxes of 2 rows of 16 columns, or an entry is not a byte -/
  | sboxNotBytes
  deriving DecidableEq, Repr

/-- A list as a vector, where its length is the one asked for. -/
def toVector? {α : Type} (n : Nat) (l : List α) : Option (Vector α n) :=
  if h : l.length = n then some ⟨l.toArray, by simpa using h⟩ else none

/-- A number as a byte, where it is one (R6). -/
def toByte? (n : Nat) : Option Byte := if n < 256 then some (BitVec.ofNat 8 n) else none

/-- A number as an expansion index 0..63 (R9(c)). -/
def toExpIndex? (n : Nat) : Option (Fin 64) := if h : n < 64 then some ⟨n, h⟩ else none

/-- A number as a shift amount (R9(d)). -/
def toShift? : Nat → Option ShiftAmount
  | 1 => some .one
  | 2 => some .two
  | _ => none

/-- A list of numbers as a vector of what `f` makes of each. -/
def toVectorOf? {α β : Type} (f : α → Option β) (n : Nat) (l : List α) : Option (Vector β n) :=
  (l.mapM f).bind (toVector? n)

/-- The S-boxes (R8, R9(e)). -/
def toSbox? (l : List (List (List Nat))) : Option (Vector (Vector (Vector Byte 16) 2) 8) :=
  toVectorOf? (toVectorOf? (toVectorOf? toByte? 16) 2) 8 l

/-- Loads a configuration with the given switches, or refuses it by the name of a condition of R9 it breaks. -/
def RawTables.load (r : RawTables) (sched : SchedRefresh) (pos : PosSrc) : Except ConfigRefusal Config :=
  match toVectorOf? toByte? 256 r.fwd, toVectorOf? toByte? 256 r.inv, toByte? r.notch, toVectorOf? toByte? 256 r.refl with
  | some fwd, some inv, some notch, some refl =>
    match toVectorOf? toExpIndex? 128 r.exp with
    | none => .error .expOutOfRange
    | some exp =>
      match toVectorOf? toShift? 16 r.shifts with
      | none => .error .shiftsOutOfRange
      | some shifts =>
        match toSbox? r.sbox with
        | none => .error .sboxNotBytes
        | some sbox =>
          let t : Tables := { rotorI := { fwd, inv, notch }, refl, exp, sbox, shifts }
          if hb : t.ReflIsInvolution then
            if ha : t.FwdIsPermutation then
              .ok { tables := t, schedRefresh := sched, posSrc := pos, fwd_permutation := ha, refl_involution := hb }
            else .error .fwdNotPermutation
          else .error .reflNotInvolution
  | _, _, _, _ => .error .rotorTablesNotBytes

end Sys2Proof
end

