-- ==== Sys2Proof/Certificates/Slice0/Obligations.lean ====
section
/-! DEFINITION. The statements for the provers. -/

open Sys2Proof Sys2Proof.Machine

/-! ### Reset and configuration -/

/-- R270, R44: whatever the state, also with a command latched, the reset event leaves every element at its reset value. PEND
empty is `Pend.empty` and the values of M and SK, which R44 leaves open, are not stated (log 5, log 6, log 7). The
configuration, the later events and the bytes already read stay (log 12). -/
def Obligations.ResetEventLeavesResetValues : Prop :=
  ∀ (s : State) (rest : List BusEvent), s.host.pending = .reset :: rest →
    ∃ t, step s = .next t ∧
      t.key = zeroBlock ∧ t.keyv = false ∧ t.built = false ∧ t.prev = zeroBlock ∧ t.mode = .idle ∧ t.remain = 0 ∧
      t.busy = false ∧ t.pend = Pend.empty ∧ t.ovr = false ∧ t.err = 0 ∧ t.keylen = 0 ∧ t.len = 0 ∧
      t.keyIn = zeroBlock ∧ t.blkIn = zeroBlock ∧ t.blkOut = zeroBlock ∧ t.tfault = !selfCheck s.cfg ∧
      t.cfg = s.cfg ∧ t.host.pending = rest ∧ t.host.reads = s.host.reads ∧
      t.regRead 0x01 = (if selfCheck s.cfg then 0x00 else 0x20)

/-- R273, R274: TFAULT is 0 after a reset exactly where INV[FWD[x]] = x for every byte x of the configuration, whatever else
the state held; no other step changes TFAULT. -/
def Obligations.SelfCheckDecidesTableFault : Prop :=
  (∀ (s : State) (rest : List BusEvent), s.host.pending = .reset :: rest →
    ∃ t, step s = .next t ∧ (t.tfault = false ↔
      ∀ x : Byte, lookup s.cfg.tables.rotorI.inv (lookup s.cfg.tables.rotorI.fwd x) = x)) ∧
  (∀ s t : State, step s = .next t → (∀ rest, s.host.pending ≠ .reset :: rest) → t.tfault = s.tfault)

/-- R9, R273 and I4: a configuration offered as numbers is accepted exactly where it is well formed, whatever its INV. -/
def Obligations.ConfigurationLoadsIffWellFormed : Prop :=
  ∀ (r : RawTables) (a : SchedRefresh) (b : PosSrc), (∃ c, r.load a b = .ok c) ↔ r.WellFormed

/-- R41: no step changes the configuration, and no read depends on it. -/
def Obligations.ConfigurationNeverChanges : Prop :=
  (∀ s t : State, step s = .next t → t.cfg = s.cfg) ∧
  (∀ (s : State) (c : Config) (a : Byte), State.regRead { s with cfg := c } a = s.regRead a)

/-! ### The register interface -/

/-- R62, R63: what each address of the map reads as, the counters little-endian. -/
def Obligations.RegisterMapReads : Prop :=
  ∀ s : State,
    s.regRead 0x00 = 0 ∧ s.regRead 0x01 = s.status ∧ s.regRead 0x02 = s.err ∧ s.regRead 0x03 = s.keylen ∧
    s.len.toNat = (s.regRead 0x04).toNat + 2 ^ 8 * (s.regRead 0x05).toNat + 2 ^ 16 * (s.regRead 0x06).toNat +
      2 ^ 24 * (s.regRead 0x07).toNat ∧
    s.remain.toNat = (s.regRead 0x08).toNat + 2 ^ 8 * (s.regRead 0x09).toNat + 2 ^ 16 * (s.regRead 0x0A).toNat +
      2 ^ 24 * (s.regRead 0x0B).toNat ∧
    (∀ (i : Nat) (h : i < 16), s.regRead (BitVec.ofNat 8 (0x10 + i)) = s.keyIn[i] ∧
      s.regRead (BitVec.ofNat 8 (0x20 + i)) = s.blkIn[i] ∧ s.regRead (BitVec.ofNat 8 (0x30 + i)) = s.blkOut[i])

/-- R64: a read of a reserved address or of CMD gives 0x00 and changes nothing else; a write to a reserved address, to ERR, to
REMAIN or to BLK_OUT changes nothing. -/
def Obligations.ReservedAndReadOnlyAddresses : Prop :=
  (∀ (s : State) (a : Byte) (rest : List BusEvent),
    (a.toNat = 0x00 ∨ 0x0C ≤ a.toNat ∧ a.toNat ≤ 0x0F ∨ 0x40 ≤ a.toNat) → s.host.pending = .read a :: rest →
    step s = .next { s with host := { pending := rest, reads := 0x00 :: s.host.reads } }) ∧
  (∀ (s : State) (a v : Byte) (rest : List BusEvent),
    (a.toNat = 0x02 ∨ 0x08 ≤ a.toNat ∧ a.toNat ≤ 0x0F ∨ 0x30 ≤ a.toNat) → s.host.pending = .write a v :: rest →
    step s = .next (s.withPending rest))

/-- R65: a read gives the host the byte at the address and changes nothing else; two reads of one address with only reads
between them give the same byte. -/
def Obligations.ReadsHaveNoSideEffect : Prop :=
  (∀ (s : State) (a : Byte) (rest : List BusEvent), s.host.pending = .read a :: rest →
    step s = .next { s with host := { pending := rest, reads := s.regRead a :: s.host.reads } }) ∧
  (∀ (s : State) (a : Byte) (between : List Byte) (rest : List BusEvent),
    s.host.pending = .read a :: (between.map BusEvent.read ++ .read a :: rest) →
    let got := s.regRead a :: ((between.map s.regRead).reverse ++ s.regRead a :: s.host.reads)
    RunsTo (between.length + 2) s { s with host := { pending := rest, reads := got } })

/-- R66: a write to KEYLEN, LEN, KEY_IN or BLK_IN, also while BUSY = 1, makes that address read the byte written, leaves every
other address reading as before, and touches neither PEND nor any internal state. A write to STATUS clears OVR when bit 6 of
the byte is 1. A write to CMD on an idle block issues a command. -/
def Obligations.OperandWritesStore : Prop :=
  (∀ (s : State) (a v : Byte) (rest : List BusEvent),
    (a.toNat = 0x03 ∨ 0x04 ≤ a.toNat ∧ a.toNat ≤ 0x07 ∨ 0x10 ≤ a.toNat ∧ a.toNat ≤ 0x2F) →
    s.host.pending = .write a v :: rest →
    ∃ t, step s = .next t ∧ t.regRead a = v ∧ (∀ b, b ≠ a → t.regRead b = s.regRead b) ∧
      t = { s.withPending rest with keylen := t.keylen, len := t.len, keyIn := t.keyIn, blkIn := t.blkIn }) ∧
  (∀ (s : State) (v : Byte) (rest : List BusEvent), s.host.pending = .write 0x01 v :: rest → v.getLsbD 6 = true →
    step s = .next { s.withPending rest with ovr := false }) ∧
  (∀ (s : State) (v : Byte) (rest : List BusEvent), s.host.pending = .write 0x00 v :: rest → s.busy = false →
    ∃ t, step s = .next t ∧ t.busy = true ∧ t.pend.op = v)

/-- R67: a CMD write latches the byte with the operand registers of that moment and sets BUSY, or, while BUSY = 1, is dropped
and sets OVR. It never raises an error, whatever the byte. -/
def Obligations.CmdWriteLatchesOrOverruns : Prop :=
  ∀ (s : State) (v : Byte) (rest : List BusEvent), s.host.pending = .write 0x00 v :: rest →
    (s.busy = false → step s = .next { s.withPending rest with
      pend := { op := v, keylen := s.keylen, len := s.len, keyIn := s.keyIn, blkIn := s.blkIn }, busy := true }) ∧
    (s.busy = true → step s = .next { s.withPending rest with ovr := true })

/-- R40: the bits of STATUS, and the one effect of writing it. -/
def Obligations.StatusBits : Prop :=
  (∀ s : State,
    (s.regRead 0x01).getLsbD 0 = s.busy ∧ (s.regRead 0x01).getLsbD 1 = s.keyv ∧ (s.regRead 0x01).getLsbD 2 = s.built ∧
    (s.regRead 0x01).extractLsb' 3 2 = (match s.mode with | .idle => 0b00#2 | .enc => 0b01#2 | .dec => 0b10#2) ∧
    (s.regRead 0x01).getLsbD 5 = s.tfault ∧ (s.regRead 0x01).getLsbD 6 = s.ovr ∧
    (s.regRead 0x01).getLsbD 7 = decide (s.err ≠ 0)) ∧
  (∀ (s : State) (v : Byte) (rest : List BusEvent), s.host.pending = .write 0x01 v :: rest →
    step s = .next { s.withPending rest with ovr := if v.getLsbD 6 then false else s.ovr }) ∧
  (∀ (c : Config) (h : HostPort),
    (State.afterReset c h).regRead 0x01 = if selfCheck c then 0x00 else 0x20)

/-- R68: the CMD write of an idle block leaves every address but STATUS reading as before the command, and STATUS differs in
BUSY alone. Every read or write after it, while BUSY = 1, leaves the latched command, ERR, REMAIN, BLK_OUT and STATUS bits 1-5
and 7 as they were, and BUSY reads 1. -/
def Obligations.LatchedCommandShowsOldResults : Prop :=
  (∀ (s t : State) (v : Byte) (rest : List BusEvent), s.host.pending = .write 0x00 v :: rest → s.busy = false →
    step s = .next t →
      (∀ a, a ≠ 0x01 → t.regRead a = s.regRead a) ∧
      (∀ i, i ≠ 0 → (t.regRead 0x01).getLsbD i = (s.regRead 0x01).getLsbD i) ∧ (t.regRead 0x01).getLsbD 0 = true) ∧
  (∀ (s t : State) (e : BusEvent) (rest : List BusEvent), s.busy = true → s.host.pending = e :: rest →
    ((∃ a, e = .read a) ∨ ∃ a v, e = .write a v) → step s = .next t →
      t.busy = true ∧ t.pend = s.pend ∧
      (∀ a : Byte, a.toNat = 0x02 ∨ 0x08 ≤ a.toNat ∧ a.toNat ≤ 0x0B ∨ 0x30 ≤ a.toNat ∧ a.toNat ≤ 0x3F →
        t.regRead a = s.regRead a) ∧
      (∀ i, i ≠ 6 → (t.regRead 0x01).getLsbD i = (s.regRead 0x01).getLsbD i) ∧ (t.regRead 0x01).getLsbD 0 = true)

/-- R282: a write to any address but CMD while a command is latched, and that command's engine step, can change places: the
latched command does not see the write. -/
def Obligations.LatchedCommandDoesNotSeeWrites : Prop :=
  ∀ (s t : State) (a v : Byte), s.busy = true → a ≠ 0x00 → engineStep s = .next t →
    engineStep (s.regWrite a v) = .next (t.regWrite a v)

/-- R251: what the host reads does not depend on KEY, M, SK, PREV or PEND. -/
def Obligations.SecretsUnreadable : Prop :=
  ∀ (s : State) (key prev : Block) (m : Vector RotorMachine 16) (sk : Vector Block 16) (p : Pend) (a : Byte),
    State.regRead { s with key := key, machines := m, sk := sk, prev := prev, pend := p } a = s.regRead a

/-! ### The engine step and decoding -/

/-- R200, R74: where the engine has its turn with a legal command latched, the step is exec of that command. Two of the three
clauses rest on the model's choices: that a step with no event to come is the engine's turn is log 9 (DESIGN CHOICE), and that
a command placed by `withFetchWord` is the one the next step runs is log 11 (DEDUCED). -/
def Obligations.StepRunsDecodedCommand : Prop :=
  (∀ (s : State) (i : Instr), s.host.pending = [] → s.busy = true → decode s.pend.op = .ok i → step s = exec i s) ∧
  (∀ (s : State) (i : Instr) (rest : List BusEvent), s.host.pending = .engine :: rest → s.busy = true →
    decode s.pend.op = .ok i → step s = exec i (s.withPending rest)) ∧
  (∀ (s : State) (i : Instr) (w : Nat), w < 256 → decode (BitVec.ofNat 8 w) = .ok i →
    step (s.withFetchWord 8 w) = exec i (s.latch (BitVec.ofNat 8 w)))

/-- R200, R255: the engine has a step exactly when BUSY = 1; with BUSY = 0 its turn changes nothing. That the idle block takes a
step at all, and that its turn comes with no event left, is the model's choice (log 9, DESIGN CHOICE). -/
def Obligations.IdleBlockHoldsState : Prop :=
  ∀ (s : State), s.busy = false →
    (s.host.pending = [] → step s = .next s) ∧
    (∀ rest, s.host.pending = .engine :: rest → step s = .next (s.withPending rest))

/-- R200, R247: with only reads and writes still to come, the latched command is the one the engine executes once they are
done: they leave it latched, the step after them is its engine step, and BUSY is 0 then. That the turn comes right after the
last of them is the model's choice (log 9, DESIGN CHOICE); lists that hold engine turns or resets are not spoken of. -/
def Obligations.LatchedCommandCompletes : Prop :=
  ∀ s : State, s.busy = true → (∀ e ∈ s.host.pending, (∃ a, e = .read a) ∨ ∃ a v, e = .write a v) →
    ∃ u t, RunsTo s.host.pending.length s u ∧ u.host.pending = [] ∧ u.busy = true ∧ u.pend = s.pend ∧
      step u = engineStep u ∧ engineStep u = .next t ∧ RunsTo (s.host.pending.length + 1) s t ∧ t.busy = false ∧
      t.host.pending = []

/-- R92, R95: the decoder reads exactly the seven bytes of the opcode map, and every command's byte back. -/
def Obligations.DecoderIsOpcodeMap : Prop :=
  (∀ v i, decode v = .ok i ↔ (v.toNat, i) ∈ [(0x00, Instr.nop), (0x01, Instr.loadKey), (0x02, Instr.encBegin),
    (0x03, Instr.encBlock), (0x04, Instr.decBegin), (0x05, Instr.decBlock), (0x06, Instr.endSession)]) ∧
  (∀ i, decode (encode i) = .ok i)

/-- A few words of the opcode map, written out (R92, R93). -/
def Obligations.DecodeSampleWords : Prop :=
  decodeTableWord 8 0b00000001 = some .loadKey ∧ decodeTableWord 8 0b00000011 = some .encBlock ∧
    decodeTableWord 8 0b00000101 = some .decBlock ∧ decodeTableWord 8 0b00000110 = some .endSession ∧
    decodeTableWord 8 0b00010000 = none ∧ decodeTableWord 8 0b00000111 = none

/-- R93: every byte that names no command ends with BAD_OPCODE and changes nothing but ERR (and BUSY); while TFAULT = 1
TABLE_FAULT comes first (R94). -/
def Obligations.IllegalByteEndsWithBadOpcode : Prop :=
  ∀ s : State, s.busy = true → 0x07 ≤ s.pend.op.toNat →
    (s.tfault = false → engineStep s = .next { s with err := 0x05, busy := false }) ∧
    (s.tfault = true → engineStep s = .next { s with err := 0x06, busy := false })

/-- R242: while TFAULT = 1 every latched byte, legal or not, ends with TABLE_FAULT and changes nothing else; only a reset sets or
clears TFAULT. -/
def Obligations.TableFaultRefusesEveryCommand : Prop :=
  (∀ s : State, s.busy = true → s.tfault = true → engineStep s = .next { s with err := 0x06, busy := false }) ∧
  (∀ s t : State, step s = .next t → t.tfault ≠ s.tfault → ∃ rest, s.host.pending = .reset :: rest)

/-! ### What each command does -/

/-- R202: NOP clears ERR; under TFAULT it is refused. -/
def Obligations.NopClearsErr : Prop :=
  ∀ s : State,
    decode 0x00 = .ok .nop ∧
    (s.tfault = false → exec .nop s = .next { s with err := 0x00, busy := false }) ∧
    (s.tfault = true → exec .nop s = .next { s with err := 0x06, busy := false })

/-- R203: LOADKEY loads the operand key and makes a fresh instance, or rejects by the first check that fails. What M and SK hold
after it has no meaning, so nothing is said of them. -/
def Obligations.LoadKeyMakesFreshInstance : Prop :=
  ∀ s : State,
    decode 0x01 = .ok .loadKey ∧
    (s.tfault = false → s.mode = .idle → s.pend.keylen = 16 →
      ∃ t, exec .loadKey s = .next t ∧ t = { s with
        key := s.pend.keyIn, keyv := true, built := false, err := 0x00, busy := false, machines := t.machines, sk := t.sk }) ∧
    (s.tfault = true → exec .loadKey s = .next { s with err := 0x06, busy := false }) ∧
    (s.tfault = false → s.mode ≠ .idle → exec .loadKey s = .next { s with err := 0x04, busy := false }) ∧
    (s.tfault = false → s.mode = .idle → s.pend.keylen ≠ 16 →
      exec .loadKey s = .next { s with err := 0x01, busy := false })

/-- R204, R212: ENC_BEGIN opens an encrypt session of LEN bytes, none where LEN = 0, or rejects by the first check that
fails. -/
def Obligations.EncBeginOpensSession : Prop :=
  ∀ s : State,
    decode 0x02 = .ok .encBegin ∧
    (s.tfault = false → s.mode = .idle → s.keyv = true → s.pend.len ≠ 0 →
      exec .encBegin s =
        .next { s with prev := zeroBlock, remain := s.pend.len, mode := .enc, err := 0x00, busy := false }) ∧
    (s.tfault = false → s.mode = .idle → s.keyv = true → s.pend.len = 0 →
      exec .encBegin s = .next { s with err := 0x00, busy := false }) ∧
    (s.tfault = true → exec .encBegin s = .next { s with err := 0x06, busy := false }) ∧
    (s.tfault = false → s.mode ≠ .idle → exec .encBegin s = .next { s with err := 0x04, busy := false }) ∧
    (s.tfault = false → s.mode = .idle → s.keyv = false → exec .encBegin s = .next { s with err := 0x03, busy := false })

/-- R206: ENC_BLOCK pads the operand with zeros past the session's last byte, runs the schedule step, chains with PREV, runs
the Feistel engine forward, and ends the session with its last byte; with no encrypt session it is rejected. -/
def Obligations.EncBlockEncryptsOneBlock : Prop :=
  ∀ s : State,
    decode 0x03 = .ok .encBlock ∧
    (s.tfault = false → s.mode = .enc →
      ∃ t, exec .encBlock s = .next t ∧
        (let n := min 16 s.remain.toNat
         let p : Block := Vector.ofFn fun j => if j.val < n then s.pend.blkIn[j] else 0
         let f := schedule s.cfg s.key (!s.built) { machines := s.machines, sk := s.sk }
         let out := feistelEnc s.cfg (Vector.ofFn fun j => p[j] ^^^ s.prev[j]) f.sk
         t = { s with
           machines := f.machines, sk := f.sk, built := true, blkOut := out,
           prev := if s.remain.toNat ≤ 16 then zeroBlock else out,
           remain := BitVec.ofNat 32 (s.remain.toNat - n),
           mode := if s.remain.toNat ≤ 16 then .idle else .enc, err := 0x00, busy := false })) ∧
    (s.tfault = true → exec .encBlock s = .next { s with err := 0x06, busy := false }) ∧
    (s.tfault = false → s.mode ≠ .enc → exec .encBlock s = .next { s with err := 0x04, busy := false })

/-- R207, R208, R212: DEC_BEGIN opens a decrypt session of LEN bytes, none where LEN = 0, or rejects by the first check that
fails; a length that is not a multiple of 16 is refused before any block. -/
def Obligations.DecBeginOpensSession : Prop :=
  ∀ s : State,
    decode 0x04 = .ok .decBegin ∧
    (s.tfault = false → s.mode = .idle → s.keyv = true → s.pend.len.toNat % 16 = 0 → s.pend.len ≠ 0 →
      exec .decBegin s =
        .next { s with prev := zeroBlock, remain := s.pend.len, mode := .dec, err := 0x00, busy := false }) ∧
    (s.tfault = false → s.mode = .idle → s.keyv = true → s.pend.len = 0 →
      exec .decBegin s = .next { s with err := 0x00, busy := false }) ∧
    (s.tfault = true → exec .decBegin s = .next { s with err := 0x06, busy := false }) ∧
    (s.tfault = false → s.mode ≠ .idle → exec .decBegin s = .next { s with err := 0x04, busy := false }) ∧
    (s.tfault = false → s.mode = .idle → s.keyv = false →
      exec .decBegin s = .next { s with err := 0x03, busy := false }) ∧
    (s.tfault = false → s.mode = .idle → s.keyv = true → s.pend.len.toNat % 16 ≠ 0 →
      exec .decBegin s = .next { s with err := 0x02, busy := false })

/-- R209: DEC_BLOCK runs the same schedule step, the Feistel engine backward, and unchains with the previous raw ciphertext;
PREV becomes the operand. Stated for states with at least 16 bytes left, as every decrypt session has (R43(d)). -/
def Obligations.DecBlockDecryptsOneBlock : Prop :=
  ∀ s : State,
    decode 0x05 = .ok .decBlock ∧
    (s.tfault = false → s.mode = .dec → 16 ≤ s.remain.toNat →
      ∃ t, exec .decBlock s = .next t ∧
        (let f := schedule s.cfg s.key (!s.built) { machines := s.machines, sk := s.sk }
         let d := feistelDec s.cfg s.pend.blkIn f.sk
         t = { s with
           machines := f.machines, sk := f.sk, built := true, blkOut := Vector.ofFn fun j => d[j] ^^^ s.prev[j],
           prev := if s.remain.toNat = 16 then zeroBlock else s.pend.blkIn,
           remain := BitVec.ofNat 32 (s.remain.toNat - 16),
           mode := if s.remain.toNat = 16 then .idle else .dec, err := 0x00, busy := false })) ∧
    (s.tfault = true → exec .decBlock s = .next { s with err := 0x06, busy := false }) ∧
    (s.tfault = false → s.mode ≠ .dec → exec .decBlock s = .next { s with err := 0x04, busy := false })

/-- R210, R211: END leaves the session, in any mode, and keeps the key, the machines and BLK_OUT; under TFAULT it is
refused. -/
def Obligations.EndAbandonsSession : Prop :=
  ∀ s : State,
    decode 0x06 = .ok .endSession ∧
    (s.tfault = false →
      exec .endSession s = .next { s with mode := .idle, remain := 0, prev := zeroBlock, err := 0x00, busy := false }) ∧
    (s.tfault = true → exec .endSession s = .next { s with err := 0x06, busy := false })

/-! ### Errors and frames -/

/-- R243: a rejected command changes ERR and BUSY and nothing else. -/
def Obligations.RejectedCommandChangesOnlyErr : Prop :=
  ∀ s t : State, s.busy = true → engineStep s = .next t → t.err ≠ 0 → t = { s with err := t.err, busy := false }

/-- R240, R246: the code of every completed command, as the first in the order TABLE_FAULT, BAD_OPCODE, SEQUENCE, NO_KEY,
length errors; 0x00 where none applies. -/
def Obligations.ErrorPriority : Prop :=
  ∀ s t : State, s.busy = true → engineStep s = .next t →
    t.err =
      (if s.tfault then 0x06
       else if 0x07 ≤ s.pend.op.toNat then 0x05
       else if (s.pend.op ∈ [0x01, 0x02, 0x04] ∧ s.mode ≠ .idle) ∨ (s.pend.op = 0x03 ∧ s.mode ≠ .enc) ∨
           (s.pend.op = 0x05 ∧ s.mode ≠ .dec) then 0x04
       else if s.pend.op ∈ [0x02, 0x04] ∧ s.keyv = false then 0x03
       else if s.pend.op = 0x01 ∧ s.pend.keylen ≠ 16 then 0x01
       else if s.pend.op = 0x04 ∧ s.pend.len.toNat % 16 ≠ 0 then 0x02
       else 0x00)

/-- R205: while a session is active LOADKEY and both BEGINs are refused with SEQUENCE and leave the session untouched. -/
def Obligations.SessionExclusivity : Prop :=
  ∀ (s : State) (i : Instr), i ∈ [Instr.loadKey, .encBegin, .decBegin] → s.tfault = false → s.mode ≠ .idle →
    exec i s = .next { s with err := 0x04, busy := false }

/-- The frame of every command: what it leaves unchanged, by command (R202-R211, R22, R31, R32, R39, R66). Nothing is said of M
and SK after a LOADKEY, which gives them no meaning (R203, log 13). -/
def Obligations.CommandFrame : Prop :=
  ∀ (i : Instr) (s t : State), exec i s = .next t →
    t.busy = false ∧ t.cfg = s.cfg ∧ t.pend = s.pend ∧ t.ovr = s.ovr ∧ t.tfault = s.tfault ∧ t.keylen = s.keylen ∧
    t.len = s.len ∧ t.keyIn = s.keyIn ∧ t.blkIn = s.blkIn ∧ t.host = s.host ∧
    (i ≠ .loadKey → t.key = s.key ∧ t.keyv = s.keyv) ∧
    (i ≠ .encBlock → i ≠ .decBlock → t.blkOut = s.blkOut) ∧
    (i ≠ .encBlock → i ≠ .decBlock → i ≠ .loadKey → t.machines = s.machines ∧ t.sk = s.sk ∧ t.built = s.built) ∧
    (i = .nop ∨ i = .loadKey → t.prev = s.prev ∧ t.mode = s.mode ∧ t.remain = s.remain) ∧
    (∀ a : Byte, a.toNat ≠ 0x01 → a.toNat ≠ 0x02 → ¬ (0x08 ≤ a.toNat ∧ a.toNat ≤ 0x0B) →
      ¬ (0x30 ≤ a.toNat ∧ a.toNat ≤ 0x3F) → t.regRead a = s.regRead a)

/-- R22, R23: only a reset and a LOADKEY with a 16-byte key length outside a session change KEY; the new key is then the
latched one. -/
def Obligations.OnlyLoadKeyOrResetChangesKey : Prop :=
  ∀ s t : State, step s = .next t → t.key ≠ s.key →
    (∃ rest, s.host.pending = .reset :: rest) ∨
    (s.busy = true ∧ s.pend.op = 0x01 ∧ s.tfault = false ∧ s.mode = .idle ∧ s.pend.keylen = 16 ∧ t.key = s.pend.keyIn ∧
      t.keyv = true ∧ t.built = false)

/-- R148, R285(c): machines that are built after a step and differ from the ones before it were moved by a block command that
succeeded, in a session of its own direction. -/
def Obligations.OnlyBlockCommandsMoveMachines : Prop :=
  ∀ s t : State, step s = .next t → t.built = true → t.machines ≠ s.machines →
    s.busy = true ∧ t.err = 0 ∧ (s.pend.op = 0x03 ∧ s.mode = .enc ∨ s.pend.op = 0x05 ∧ s.mode = .dec)

/-! ### The cipher -/

/-- R111: `Advance`, position by position; both checks may fire, and then the middle rotor moves by two. -/
def Obligations.AdvancePositions : Prop :=
  ∀ (c : Config) (m : RotorMachine),
    let n := c.tables.rotorI.notch
    (advance c m).pos[0] = m.pos[0] + (if m.pos[1] = n then 1 else 0) ∧
    (advance c m).pos[1] = m.pos[1] + (if m.pos[1] = n then 1 else 0) + (if m.pos[2] = n then 1 else 0) ∧
    (advance c m).pos[2] = m.pos[2] + 1 ∧
    (advance c m).rotor = m.rotor ∧ (advance c m).ring = m.ring ∧ (advance c m).plug = m.plug

/-- R116, R110: with a consistent INV the backward pass inverts the forward pass, and the forward pass the backward one. -/
def Obligations.BackwardInvertsForward : Prop :=
  ∀ (c : Config) (m : RotorMachine) (b : Byte), selfCheck c = true →
    backwardSubst c m (forwardSubst c m b) = b ∧ forwardSubst c m (backwardSubst c m b) = b

/-- R120: two machines with the same positions and rings and a symmetric plugboard undo each other's byte. -/
def Obligations.EncryptByteIsInvolution : Prop :=
  ∀ (c : Config) (m m' : RotorMachine) (b : Byte), selfCheck c = true → m'.pos = m.pos → m'.ring = m.ring →
    (∀ x, plugSubst m' x = plugSubst m x) → (∀ x, plugSubst m (plugSubst m x) = x) →
    (encryptByte c m' (encryptByte c m b).2).2 = b

/-- R119, R117: `RotorEncrypt` advances the machine once before each byte, so byte j is substituted after j + 1 advances; the
right rotor has risen by the number of bytes. -/
def Obligations.RotorEncryptBytewise : Prop :=
  ∀ (c : Config) (n : Nat) (m : RotorMachine) (s : Vector Byte n),
    (rotorEncrypt c m s).1 = (advance c)^[n] m ∧
    (∀ (j : Nat) (h : j < n), (rotorEncrypt c m s).2[j] = substitute c ((advance c)^[j + 1] m) s[j]) ∧
    (rotorEncrypt c m s).1.pos[2] = m.pos[2] + BitVec.ofNat 8 n

/-- R141, R142: the start positions are the first three bytes of the half POS_SRC selects and the rings those of the other
half, each byte shifted left on its own with the high bits lost. -/
def Obligations.MachineParamsAreShiftedBytes : Prop :=
  ∀ (c : Config) (i : Fin 16) (v : Block) (j : Nat) (h : j < 3),
    let left := (v[j].toNat * 2 ^ c.tables.shifts[i].toNat) % 256
    let right := (v[8 + j].toNat * 2 ^ c.tables.shifts[i].toNat) % 256
    (c.posSrc = .left → (buildMachine c i v).pos[j].toNat = left ∧ (buildMachine c i v).ring[j].toNat = right) ∧
    (c.posSrc = .right → (buildMachine c i v).pos[j].toNat = right ∧ (buildMachine c i v).ring[j].toNat = left) ∧
    (buildMachine c i v).plug = []

/-- R145, R146: the recurrence of the schedule step. Round i of the chain starts from KEY or from the subkey of round i - 1,
runs a new machine in the first block and the cached one later, and its output is subkey i. Under SELF every subkey goes
once more through its own machine. It writes M, SK and BUILT alone, and every successful block command runs it once. -/
def Obligations.ScheduleStepRecurrence : Prop :=
  ∀ s : State,
    let first := !s.built
    let f := chainSchedule s.cfg s.key first { machines := s.machines, sk := s.sk }
    (∀ i : Fin 16,
      let cin := if h : i.val = 0 then s.key else f.sk[i.val - 1]
      let m := if first then buildMachine s.cfg i cin else s.machines[i]
      f.machines[i] = (rotorEncrypt s.cfg m cin).1 ∧ f.sk[i] = (rotorEncrypt s.cfg m cin).2) ∧
    s.scheduleStep.built = true ∧
    (s.cfg.schedRefresh = .chain → s.scheduleStep.machines = f.machines ∧ s.scheduleStep.sk = f.sk) ∧
    (s.cfg.schedRefresh = .self → ∀ i : Fin 16,
      let m := if first then f.machines[i] else s.machines[i]
      let k := if first then f.sk[i] else s.sk[i]
      s.scheduleStep.machines[i] = (rotorEncrypt s.cfg m k).1 ∧ s.scheduleStep.sk[i] = (rotorEncrypt s.cfg m k).2) ∧
    s.scheduleStep = { s with machines := s.scheduleStep.machines, sk := s.scheduleStep.sk, built := true } ∧
    (∀ (j : Instr) (t : State), j = .encBlock ∨ j = .decBlock → exec j s = .next t → t.err = 0 →
      t.machines = s.scheduleStep.machines ∧ t.sk = s.scheduleStep.sk ∧ t.built = true)

/-- R143, R148: while BUILT = 1 a schedule step changes the positions of a machine only: rings, rotors and plugboards stay,
and every right rotor rises by 16. -/
def Obligations.BuiltMachinesOnlyDrift : Prop :=
  ∀ (s : State) (i : Fin 16), s.built = true →
    s.scheduleStep.machines[i].ring = s.machines[i].ring ∧ s.scheduleStep.machines[i].rotor = s.machines[i].rotor ∧
    s.scheduleStep.machines[i].plug = s.machines[i].plug ∧
    s.scheduleStep.machines[i].pos[2] = s.machines[i].pos[2] + 16

/-- R24, R26 and I11: the schedule step of an instance's first block reads neither M nor SK, under either switch; under CHAIN
no block reads SK. -/
def Obligations.UnwrittenSubkeysNeverRead : Prop :=
  (∀ (c : Config) (key : Block) (f g : RotorFile), schedule c key true f = schedule c key true g) ∧
  (∀ (c : Config) (key : Block) (first : Bool) (f g : RotorFile), c.schedRefresh = .chain → f.machines = g.machines →
    schedule c key first f = schedule c key first g)

/-- R147, R149(a): from the same key, configuration and instance, an encrypt block and a decrypt block leave the same machines
and subkeys, whatever their data, PREV and bytes left. -/
def Obligations.ScheduleIndependentOfDataAndDirection : Prop :=
  ∀ (s s' t t' : State), s.cfg = s'.cfg → s.key = s'.key → s.built = s'.built → s.machines = s'.machines → s.sk = s'.sk →
    s.tfault = false → s'.tfault = false → s.mode = .enc → s'.mode = .dec →
    exec .encBlock s = .next t → exec .decBlock s' = .next t' →
    t.machines = t'.machines ∧ t.sk = t'.sk ∧ t.built = true ∧ t'.built = true

/-- R160, R15: bit i of the expanded value is bit EXP[i] of the half, numbered MSB-first. -/
def Obligations.ExpandCopiesSelectedBits : Prop :=
  ∀ (c : Config) (h : Half) (i : Fin 128),
    (expand c h)[i.val / 8].getLsbD (7 - i.val % 8) =
      h[c.tables.exp[i].val / 8].getLsbD (7 - c.tables.exp[i].val % 8)

/-- R162: each output byte is the entry of its own position's S-box at row topbit(byte0) xor topbit(byte1) and column
byte0 & 0x0F, so bits 6:4 of byte0 and bits 6:0 of byte1 never matter. -/
def Obligations.SBoxLayerLookup : Prop :=
  (∀ (c : Config) (x : Block) (k : Nat) (h : k < 8),
    (sboxLayer c x)[k] =
      c.tables.sbox[k][(if x[2 * k].getLsbD 7 = x[2 * k + 1].getLsbD 7 then 0 else 1 : Fin 2)][x[2 * k].toNat % 16]) ∧
  (∀ (c : Config) (x y : Block),
    (∀ (k : Nat) (h : k < 8), x[2 * k] &&& 0x8F = y[2 * k] &&& 0x8F ∧ x[2 * k + 1] &&& 0x80 = y[2 * k + 1] &&& 0x80) →
    sboxLayer c x = sboxLayer c y)

/-- R181, R182: the sixteen encrypt rounds in order 0..15, both new halves from the old ones, and the result the two halves
after the last round, the left one first, with no final swap. -/
def Obligations.FeistelEncRounds : Prop :=
  ∀ (c : Config) (b : Block) (sk : Vector Block 16), ∃ l r : Nat → Half,
    (∀ (j : Nat) (h : j < 8), (l 0)[j] = b[j] ∧ (r 0)[j] = b[8 + j]) ∧
    (∀ (i : Nat) (h : i < 16), l (i + 1) = r i ∧ r (i + 1) = xorBytes (l i) (roundF c (r i) sk[i])) ∧
    (∀ (j : Nat) (h : j < 8), (feistelEnc c b sk)[j] = (l 16)[j] ∧ (feistelEnc c b sk)[8 + j] = (r 16)[j])

/-- R183: the sixteen decrypt rounds in order 15..0 with the same subkeys. -/
def Obligations.FeistelDecRounds : Prop :=
  ∀ (c : Config) (b : Block) (sk : Vector Block 16), ∃ l r : Nat → Half,
    (∀ (j : Nat) (h : j < 8), (l 16)[j] = b[j] ∧ (r 16)[j] = b[8 + j]) ∧
    (∀ (i : Nat) (h : i < 16), r i = l (i + 1) ∧ l i = xorBytes (r (i + 1)) (roundF c (l (i + 1)) sk[i])) ∧
    (∀ (j : Nat) (h : j < 8), (feistelDec c b sk)[j] = (l 0)[j] ∧ (feistelDec c b sk)[8 + j] = (r 0)[j])

/-- R184: with one list of subkeys each Feistel direction inverts the other, whatever the round function. -/
def Obligations.FeistelDirectionsInvert : Prop :=
  ∀ (c : Config) (b : Block) (sk : Vector Block 16),
    feistelDec c (feistelEnc c b sk) sk = b ∧ feistelEnc c (feistelDec c b sk) sk = b

/-! ### Whole calls -/

/-- R213: the command sequence of `encrypt(p)` gives the chaining of the source, block for block; the bytes past the end of p
may hold anything. The session ends, and the machines have drifted by one schedule step a block. The
schedule is that of log 24 (DESIGN CHOICE). -/
def Obligations.EncryptCallIsChaining : Prop :=
  ∀ (s : State) (p : List Byte) (bs : List Block), s.Ready → s.mode = .idle → s.keyv = true → p.length < 2 ^ 32 →
    bs.length = blockCount p.length →
    (∀ (j : Nat) (hj : j < bs.length) (i : Nat) (hi : i < 16) (hp : 16 * j + i < p.length),
      (bs[j])[i] = p[16 * j + i]) →
    ∃ t, s.call .encBegin .encBlock p.length bs =
        some (t, cbcEncrypt s.cfg s.key s.inst zeroBlock (bufferBlocks p)) ∧
      t.mode = .idle ∧ t.err = 0 ∧ t.busy = false ∧ t.key = s.key ∧ t.inst = s.inst.ticks s.cfg s.key bs.length

/-- R214: the command sequence of `decrypt(c)` gives the chaining of the source, block for block, with no padding removed. The
schedule is that of log 24 (DESIGN CHOICE). -/
def Obligations.DecryptCallIsChaining : Prop :=
  ∀ (s : State) (cs : List Block), s.Ready → s.mode = .idle → s.keyv = true → 16 * cs.length < 2 ^ 32 →
    ∃ t, s.decryptCall cs = some (t, cbcDecrypt s.cfg s.key s.inst zeroBlock cs) ∧
      t.mode = .idle ∧ t.err = 0 ∧ t.busy = false ∧ t.key = s.key ∧ t.inst = s.inst.ticks s.cfg s.key cs.length

/-- R215, R218: an encrypt session begun just after LOADKEY(k), then a decrypt session of its output begun just after another
LOADKEY(k), give the plaintext with its zero padding. The bound on the length is what a 32-bit LEN lets the decrypt session
state (R7, D32). The schedule is that of log 24 (DESIGN CHOICE). -/
def Obligations.RoundTripOnFreshInstances : Prop :=
  ∀ (s : State) (k : Block) (p : List Byte), s.Ready → s.mode = .idle → p.length ≤ 2 ^ 32 - 16 →
    ∃ s1 s2 s3 s4 cs, s.construct k = some s1 ∧ s1.encryptCall p = some (s2, cs) ∧ s2.construct k = some s3 ∧
      s3.decryptCall cs = some (s4, bufferBlocks p) ∧ s4.mode = .idle ∧ s4.err = 0

/-- R216: from a ready idle block with a key, `encrypt` of L bytes gives as many ciphertext blocks as make the smallest multiple
of 16 that is at least L. They are the number n = ceil(L/16) of ENC_BLOCK commands: whatever the data, ENC_BEGIN and each of
the n ENC_BLOCKs end with ERR 0x00 and lower REMAIN by what they consume, MODE stays ENC up to the last one and returns to IDLE
with it, and one more ENC_BLOCK is refused with SEQUENCE. The schedule is that of log 24 (DESIGN CHOICE). -/
def Obligations.CiphertextLength : Prop :=
  ∀ (s : State) (p : List Byte), s.Ready → s.mode = .idle → s.keyv = true → p.length < 2 ^ 32 →
    (∃ t cs, s.encryptCall p = some (t, cs) ∧ p.length ≤ 16 * cs.length ∧ 16 * cs.length < p.length + 16 ∧
      (p.length % 16 = 0 → 16 * cs.length = p.length)) ∧
    ∃ s', (s.putLen p.length).issue .encBegin = some s' ∧ s'.err = 0x00 ∧
      ∀ bs : List Block, 16 * bs.length < p.length + 16 →
        ∃ t os, State.passBlocks .encBlock s' bs = some (t, os) ∧ os.length = bs.length ∧ t.err = 0x00 ∧
          (p ≠ [] → t.remain.toNat = p.length - 16 * bs.length) ∧ t.mode = (if 16 * bs.length < p.length then .enc else .idle) ∧
          (p.length ≤ 16 * bs.length → ∀ b : Block, ∃ u, (t.putBlk b).issue .encBlock = some u ∧ u.err = 0x04)

/-- R217: two encrypt sessions from one state whose plaintexts differ in block i alone give the same ciphertext blocks before
i and different ones from i on. The schedule is that of log 24 (DESIGN CHOICE). -/
def Obligations.ChainingCausality : Prop :=
  ∀ (s t u : State) (p q : List Byte) (cs ds : List Block) (i : Nat), s.Ready → s.mode = .idle → s.keyv = true →
    p.length < 2 ^ 32 → p.length = q.length → i < blockCount p.length → bufferBlock p i ≠ bufferBlock q i →
    (∀ j, j ≠ i → bufferBlock p j = bufferBlock q j) →
    s.encryptCall p = some (t, cs) → s.encryptCall q = some (u, ds) →
    (∀ j, j < i → cs[j]? = ds[j]?) ∧ (∀ j, i ≤ j → j < blockCount p.length → cs[j]? ≠ ds[j]?)

/-- R97, R200, R75: `run MNEM` on an idle block, under every schedule: every poll but the last reads BUSY = 1, the last reads
BUSY = 0, and the state is the one the command leaves. Where the engine's turn comes after `polls` polls, there are just so many
that read 1, and the program's run is the run of the machine over its accesses and that turn (log 18, DESIGN CHOICE). -/
def Obligations.RunStatementWaitsForCompletion : Prop :=
  ∀ (s t : State) (i : Instr), s.busy = false → s.issue i = some t →
    ∃ first last : Byte, first.getLsbD 0 = true ∧ last.getLsbD 0 = false ∧ last = t.regRead 0x01 ∧
      (∀ q : List Bool, ∃ n ≤ q.length, runProgram q [.run i] s = .finished { t with host :=
        { pending := s.host.pending, reads := last :: List.replicate n first ++ s.host.reads } }) ∧
      (∀ polls : Nat, runProgram (List.replicate (polls + 1) false) [.run i] s = .finished { t with host :=
        { pending := s.host.pending, reads := last :: List.replicate polls first ++ s.host.reads } }) ∧
      (∀ polls : Nat, RunsTo (polls + 3)
        (s.withPending (.write 0x00 (encode i) :: (List.replicate polls (.read 0x01) ++ [.engine, .read 0x01])))
        { t with host := { pending := [], reads := last :: List.replicate polls first ++ s.host.reads } })

/-- R97: `wait` ends at the first poll that reads BUSY = 0, under every schedule (log 18, DESIGN CHOICE): after one read on an
idle block, and with a command latched after that command's engine step. `expect A, V` reads A, and the program fails
where the byte read is not V; that nothing after it is run is log 27 (DESIGN CHOICE). -/
def Obligations.WaitAndExpectEndAsRead : Prop :=
  (∀ (s : State) (q : List Bool), s.busy = false → runProgram q [.wait] s = .finished { s with host :=
    { pending := s.host.pending, reads := s.regRead 0x01 :: s.host.reads } }) ∧
  (∀ (s t : State) (q : List Bool), s.busy = true → engineStep s = .next t → ∃ n ≤ q.length,
    runProgram q [.wait] s = .finished { t with host :=
      { pending := s.host.pending, reads := t.regRead 0x01 :: List.replicate n (s.regRead 0x01) ++ s.host.reads } }) ∧
  (∀ (s : State) (q : List Bool) (a v : Byte) (l : List HostStmt), s.busy = false →
    let u : State := { s with host := { pending := s.host.pending, reads := s.regRead a :: s.host.reads } }
    runProgram q (.expect a v :: l) s = if s.regRead a = v then runProgram q.tail l u else .failed u)

/-- R97, R98: under every schedule the program of each of the three calls ends in the state of that call, as far as the block
goes, and `getblk` gives the host BLK_OUT byte by byte. The blocks of a ciphertext whose length 16 does not divide are log 25
(DESIGN CHOICE), so such lengths are left out. Buffers of 2^32 bytes or more, which the calls and the programs both pass in one
call, are log 26 (DESIGN CHOICE). -/
def Obligations.HostProgramsRunTheCalls : Prop :=
  (∀ (s t : State) (k : Block) (q : List Bool), s.busy = false → s.construct k = some t →
    ∃ got, runProgram q (constructorProgram k 16) s =
      .finished { t with host := { pending := s.host.pending, reads := got ++ s.host.reads } }) ∧
  (∀ (s t : State) (p : List Byte) (os : List Block) (q : List Bool), s.busy = false → s.encryptCall p = some (t, os) →
    ∃ got, runProgram q (encryptProgram p) s =
      .finished { t with host := { pending := s.host.pending, reads := got ++ s.host.reads } }) ∧
  (∀ (s t : State) (c : List Byte) (os : List Block) (q : List Bool), s.busy = false → c.length % 16 = 0 →
    s.decryptCall (wholeBlocks c) = some (t, os) →
    ∃ got, runProgram q (decryptProgram c) s =
      .finished { t with host := { pending := s.host.pending, reads := got ++ s.host.reads } }) ∧
  (∀ (s : State) (q : List Bool), s.busy = false → runProgram q [.getblk] s =
    .finished { s with host := { pending := s.host.pending, reads := s.blkOut.toList.reverse ++ s.host.reads } })

/-- R96: a stream of transaction records reads back as the transactions it records. -/
def Obligations.TransactionRecordsReadBack : Prop :=
  ∀ l : List Transaction, parseRecords (recordStream l) = some l

/-! ### Invariants over every step -/

/-- R244: every state has a next state: no command, no host access and no reset stops the machine (log 21, DEDUCED). That an idle
block with no event to come has one, which is itself, is log 9 (DESIGN CHOICE): R200 gives the engine no step there. -/
def Obligations.StepAlwaysAnswersNext : Prop :=
  ∀ s : State, ∃ t, step s = .next t

/-- R43: every step keeps the invariants, from every state that has them. -/
def Obligations.StepKeepsInvariants : Prop :=
  ∀ s t : State, s.Inv → step s = .next t → t.Inv

/-- R43 at reset, for every configuration. -/
def Obligations.ResetHasInvariants : Prop :=
  State.reset.Inv ∧ ∀ (c : Config) (h : HostPort), (State.afterReset c h).Inv

/-- R24, R26, R31, I11, I12: two states that differ only in what the rules leave open (M and SK while nothing is built, PEND
while nothing is latched) go on differing only there, and the host reads the same bytes of both. -/
def Obligations.UnspecifiedContentsStayUnobservable : Prop :=
  ∀ s s' t t' : State, s.Agree s' → step s = .next t → step s' = .next t' →
    t.Agree t' ∧ t'.host.reads = t.host.reads ∧ ∀ a, t'.regRead a = t.regRead a
end

