-- ==== Sys2Proof/Laws/Bytes.lean ====
section
/-! SUPPORT. The small lemmas of the byte helpers (spec/00_scope.md rules R13-R15, spec/20_memory.md rule R63). -/

namespace Sys2Proof.Machine

@[simp] theorem zeroBlock_get (i : Fin 16) : zeroBlock[i] = 0 := by simp [zeroBlock]

@[simp] theorem xorBytes_get {n : Nat} (a b : Vector Byte n) (i : Nat) (h : i < n) :
    (xorBytes a b)[i] = a[i] ^^^ b[i] := by simp [xorBytes]

/-- Xor with the same byte string twice gives the first one back. -/
@[simp] theorem xorBytes_cancel {n : Nat} (a b : Vector Byte n) : xorBytes (xorBytes a b) b = a := by
  ext i h; simp

/-- Xor is injective in its left operand. -/
theorem xorBytes_left_inj {n : Nat} {a b c : Vector Byte n} (h : xorBytes a c = xorBytes b c) : a = b := by
  have := congrArg (fun x => xorBytes x c) h
  simpa using this

theorem xorBytes_comm {n : Nat} (a b : Vector Byte n) : xorBytes a b = xorBytes b a := by
  ext i h; simp [BitVec.xor_comm]

@[simp] theorem leftHalf_get (b : Block) (i : Nat) (h : i < 8) : (leftHalf b)[i] = b[i] := by simp [leftHalf]

@[simp] theorem rightHalf_get (b : Block) (i : Nat) (h : i < 8) : (rightHalf b)[i] = b[8 + i] := by simp [rightHalf]

@[simp] theorem leftHalf_joinHalves (l r : Half) : leftHalf (joinHalves l r) = l := by
  ext i h; simp [leftHalf, joinHalves]

@[simp] theorem rightHalf_joinHalves (l r : Half) : rightHalf (joinHalves l r) = r := by
  ext i h; simp [rightHalf, joinHalves]

/-- A block is its two halves, the left one first (R69). -/
@[simp] theorem joinHalves_halves (b : Block) : joinHalves (leftHalf b) (rightHalf b) = b := by
  ext i h
  by_cases hi : i < 8
  · simp [joinHalves, hi]
  · have h8 : 8 + (i - 8) = i := by omega
    simp [joinHalves, hi, h8]

/-- Bit 7 - k of the byte that `byteOfBits` makes is `f k`. -/
theorem byteOfBits_bit (f : Fin 8 → Bool) (k : Fin 8) : (byteOfBits f).getLsbD (7 - k.val) = f k := by
  have : ∀ b0 b1 b2 b3 b4 b5 b6 b7 : Bool, ∀ k : Fin 8,
      (BitVec.ofBool b0 ++ BitVec.ofBool b1 ++ BitVec.ofBool b2 ++ BitVec.ofBool b3 ++ BitVec.ofBool b4 ++
        BitVec.ofBool b5 ++ BitVec.ofBool b6 ++ BitVec.ofBool b7 : BitVec 8).getLsbD (7 - k.val) =
        [b0, b1, b2, b3, b4, b5, b6, b7][k.val] := by decide +kernel
  rw [byteOfBits, this]
  fin_cases k <;> rfl

theorem counterByte_get (w : Word32) (i : Fin 4) (j : Nat) :
    (counterByte w i).getLsbD j = (decide (j < 8) && w.getLsbD (8 * i.val + j)) := by simp [counterByte]

/-- Replacing one byte of a counter replaces that byte and no other (R63). -/
@[simp] theorem counterByte_setCounterByte (w : Word32) (i j : Fin 4) (v : Byte) :
    counterByte (setCounterByte w i v) j = if j = i then v else counterByte w j := by
  have h : ∀ b0 b1 b2 b3 : Byte, counterByte (b3 ++ b2 ++ b1 ++ b0 : BitVec 32) j = [b0, b1, b2, b3][j.val] := by
    intro b0 b1 b2 b3
    apply BitVec.eq_of_getLsbD_eq
    intro k hk
    rw [counterByte_get]
    fin_cases j <;> simp [hk] <;> grind
  rw [setCounterByte, h]
  fin_cases j <;> simp

/-- A counter is determined by its four bytes (R63). -/
theorem counter_ext {w x : Word32} (h : ∀ i : Fin 4, counterByte w i = counterByte x i) : w = x := by
  apply BitVec.eq_of_getLsbD_eq
  intro k hk
  have h1 := congrArg (fun b => b.getLsbD (k % 8)) (h ⟨k / 8, by omega⟩)
  have h2 : k % 8 < 8 := Nat.mod_lt _ (by decide)
  simp only [counterByte_get, h2, decide_true, Bool.true_and, Nat.div_add_mod] at h1
  exact h1

end Sys2Proof.Machine
end

