-- ==== Sys2Proof/Laws/Cipher.lean ====
section
/-! SUPPORT. What the operations of the cipher can do, said once (spec/40_rotor_machine.md, spec/41_key_schedule.md,
spec/43_feistel.md). -/

namespace Sys2Proof.Machine

/-! ### The self-check and the rotor machine -/

theorem mem_allBytes (x : Byte) : x ∈ allBytes := by
  simp only [allBytes, List.mem_map, List.mem_range]
  exact ⟨x.toNat, x.isLt, by simp⟩

/-- With a passed self-check the embedded inverse table undoes FWD (R273). -/
theorem selfCheck_lookup {c : Config} (h : selfCheck c = true) (x : Byte) :
    lookup c.tables.rotorI.inv (lookup c.tables.rotorI.fwd x) = x := by
  simpa using List.all_eq_true.mp h x (mem_allBytes x)

/-- The reflector undoes itself (R9(b), R115). -/
@[simp] theorem reflect_reflect (c : Config) (b : Byte) : reflect c (reflect c b) = b :=
  c.refl_involution b (mem_allBytes b)

/-- Every rotor of a machine has the one table there is (R10). -/
@[simp] theorem RotorMachine.tableAt_eq (c : Config) (m : RotorMachine) (i : Fin 3) : m.tableAt c i = c.tables.rotorI := rfl

/-- An advance moves positions only (R111). -/
@[simp] theorem advance_rotor (c : Config) (m : RotorMachine) : (advance c m).rotor = m.rotor := by
  simp only [advance, advanceRight, advanceMiddle]; split <;> split <;> rfl
@[simp] theorem advance_ring (c : Config) (m : RotorMachine) : (advance c m).ring = m.ring := by
  simp only [advance, advanceRight, advanceMiddle]; split <;> split <;> rfl
@[simp] theorem advance_plug (c : Config) (m : RotorMachine) : (advance c m).plug = m.plug := by
  simp only [advance, advanceRight, advanceMiddle]; split <;> split <;> rfl

@[simp] theorem rotorInit_pos (p r : Vector Byte 3) : (rotorInit p r).pos = p := rfl
@[simp] theorem rotorInit_ring (p r : Vector Byte 3) : (rotorInit p r).ring = r := rfl
@[simp] theorem rotorInit_plug (p r : Vector Byte 3) : (rotorInit p r).plug = [] := rfl
@[simp] theorem buildMachine_plug (c : Config) (i : Fin 16) (v : Block) : (buildMachine c i v).plug = [] := rfl

/-- An empty plugboard substitutes nothing (R112). -/
theorem plugSubst_of_empty {m : RotorMachine} (h : m.plug = []) (b : Byte) : plugSubst m b = b := by simp [plugSubst, h]

/-- One byte of `RotorEncrypt` advances the machine and writes one byte of the result (R117, R119). -/
theorem rotorEncryptAt_eq (c : Config) {n : Nat} (s : Vector Byte n) (acc : RotorMachine × Vector Byte n) (j : Fin n) :
    rotorEncryptAt c s acc j = (advance c acc.1, acc.2.set j (substitute c (advance c acc.1) s[j])) := rfl

/-- What an advance keeps, `RotorEncrypt` keeps (R119). -/
theorem rotorEncrypt_keeps {α : Type} (f : RotorMachine → α) (c : Config) (hf : ∀ m, f (advance c m) = f m) {n : Nat}
    (m : RotorMachine) (s : Vector Byte n) : f (rotorEncrypt c m s).1 = f m := by
  unfold rotorEncrypt
  generalize List.finRange n = l
  generalize Vector.replicate n (0 : Byte) = t
  induction l generalizing m t with
  | nil => rfl
  | cons j l ih => rw [List.foldl_cons, rotorEncryptAt_eq, ih, hf]

@[simp] theorem rotorEncrypt_plug (c : Config) {n : Nat} (m : RotorMachine) (s : Vector Byte n) :
    (rotorEncrypt c m s).1.plug = m.plug := rotorEncrypt_keeps (·.plug) c (fun _ => by simp) m s

/-! ### The key schedule -/

/-- One round of the chain, as the replacement of machine and subkey `i` (R145). -/
theorem chainRound_eq (c : Config) (first : Bool) (acc : RotorFile × Block) (i : Fin 16) :
    chainRound c first acc i =
      (acc.1.put i (rotorEncrypt c (roundMachine c first acc.1 acc.2 i) acc.2).1
        (rotorEncrypt c (roundMachine c first acc.1 acc.2 i) acc.2).2,
       (rotorEncrypt c (roundMachine c first acc.1 acc.2 i) acc.2).2) := rfl

/-- One round of the refresh under SELF (R145). -/
theorem selfRound_eq (c : Config) (f : RotorFile) (i : Fin 16) :
    selfRound c f i = f.put i (rotorEncrypt c f.machines[i] f.sk[i]).1 (rotorEncrypt c f.machines[i] f.sk[i]).2 := rfl

theorem RotorFile.put_machines_get (f : RotorFile) (i : Fin 16) (m : RotorMachine) (k : Block) (j : Fin 16) :
    (f.put i m k).machines[j] = if i = j then m else f.machines[j] := by
  simp [RotorFile.put, Vector.getElem_set, Fin.ext_iff]

theorem RotorFile.put_sk_get (f : RotorFile) (i : Fin 16) (m : RotorMachine) (k : Block) (j : Fin 16) :
    (f.put i m k).sk[j] = if i = j then k else f.sk[j] := by
  simp [RotorFile.put, Vector.getElem_set, Fin.ext_iff]

/-! ### The Feistel engine -/

/-- Each round of one direction undoes the same round of the other, with the same subkeys (R184). -/
@[simp] theorem decRound_encRound (c : Config) (sk : Vector Block 16) (lr : Half × Half) (i : Fin 16) :
    decRound c sk (encRound c sk lr i) i = lr := by simp [decRound, encRound]

@[simp] theorem encRound_decRound (c : Config) (sk : Vector Block 16) (lr : Half × Half) (i : Fin 16) :
    encRound c sk (decRound c sk lr i) i = lr := by simp [decRound, encRound]

/-- Rounds whose steps undo each other undo each other as a whole when run in opposite orders. -/
theorem foldl_reverse_cancel {α β : Type} (f g : β → α → β) (h : ∀ b a, g (f b a) a = b) (l : List α) (b : β) :
    l.reverse.foldl g (l.foldl f b) = b := by
  induction l generalizing b with
  | nil => rfl
  | cons a l ih => simp [List.foldl_append, ih, h]

end Sys2Proof.Machine
end

