-- ==== Sys2Proof/Laws/State.lean ====
section
/-! SUPPORT. One lemma per field per update of the state, so that no later proof unfolds a record update. -/

namespace Sys2Proof.Machine

@[simp] theorem State.withPending_cfg (s : State) (l : List BusEvent) : (s.withPending l).cfg = s.cfg := rfl
@[simp] theorem State.withPending_key (s : State) (l : List BusEvent) : (s.withPending l).key = s.key := rfl
@[simp] theorem State.withPending_keyv (s : State) (l : List BusEvent) : (s.withPending l).keyv = s.keyv := rfl
@[simp] theorem State.withPending_machines (s : State) (l : List BusEvent) : (s.withPending l).machines = s.machines := rfl
@[simp] theorem State.withPending_built (s : State) (l : List BusEvent) : (s.withPending l).built = s.built := rfl
@[simp] theorem State.withPending_sk (s : State) (l : List BusEvent) : (s.withPending l).sk = s.sk := rfl
@[simp] theorem State.withPending_prev (s : State) (l : List BusEvent) : (s.withPending l).prev = s.prev := rfl
@[simp] theorem State.withPending_mode (s : State) (l : List BusEvent) : (s.withPending l).mode = s.mode := rfl
@[simp] theorem State.withPending_remain (s : State) (l : List BusEvent) : (s.withPending l).remain = s.remain := rfl
@[simp] theorem State.withPending_busy (s : State) (l : List BusEvent) : (s.withPending l).busy = s.busy := rfl
@[simp] theorem State.withPending_pend (s : State) (l : List BusEvent) : (s.withPending l).pend = s.pend := rfl
@[simp] theorem State.withPending_ovr (s : State) (l : List BusEvent) : (s.withPending l).ovr = s.ovr := rfl
@[simp] theorem State.withPending_tfault (s : State) (l : List BusEvent) : (s.withPending l).tfault = s.tfault := rfl
@[simp] theorem State.withPending_err (s : State) (l : List BusEvent) : (s.withPending l).err = s.err := rfl
@[simp] theorem State.withPending_keylen (s : State) (l : List BusEvent) : (s.withPending l).keylen = s.keylen := rfl
@[simp] theorem State.withPending_len (s : State) (l : List BusEvent) : (s.withPending l).len = s.len := rfl
@[simp] theorem State.withPending_keyIn (s : State) (l : List BusEvent) : (s.withPending l).keyIn = s.keyIn := rfl
@[simp] theorem State.withPending_blkIn (s : State) (l : List BusEvent) : (s.withPending l).blkIn = s.blkIn := rfl
@[simp] theorem State.withPending_blkOut (s : State) (l : List BusEvent) : (s.withPending l).blkOut = s.blkOut := rfl
@[simp] theorem State.withPending_host (s : State) (l : List BusEvent) : (s.withPending l).host = { s.host with pending := l } := rfl

@[simp] theorem State.hostRead_cfg (s : State) (a : Byte) : (s.hostRead a).cfg = s.cfg := rfl
@[simp] theorem State.hostRead_key (s : State) (a : Byte) : (s.hostRead a).key = s.key := rfl
@[simp] theorem State.hostRead_keyv (s : State) (a : Byte) : (s.hostRead a).keyv = s.keyv := rfl
@[simp] theorem State.hostRead_machines (s : State) (a : Byte) : (s.hostRead a).machines = s.machines := rfl
@[simp] theorem State.hostRead_built (s : State) (a : Byte) : (s.hostRead a).built = s.built := rfl
@[simp] theorem State.hostRead_sk (s : State) (a : Byte) : (s.hostRead a).sk = s.sk := rfl
@[simp] theorem State.hostRead_prev (s : State) (a : Byte) : (s.hostRead a).prev = s.prev := rfl
@[simp] theorem State.hostRead_mode (s : State) (a : Byte) : (s.hostRead a).mode = s.mode := rfl
@[simp] theorem State.hostRead_remain (s : State) (a : Byte) : (s.hostRead a).remain = s.remain := rfl
@[simp] theorem State.hostRead_busy (s : State) (a : Byte) : (s.hostRead a).busy = s.busy := rfl
@[simp] theorem State.hostRead_pend (s : State) (a : Byte) : (s.hostRead a).pend = s.pend := rfl
@[simp] theorem State.hostRead_ovr (s : State) (a : Byte) : (s.hostRead a).ovr = s.ovr := rfl
@[simp] theorem State.hostRead_tfault (s : State) (a : Byte) : (s.hostRead a).tfault = s.tfault := rfl
@[simp] theorem State.hostRead_err (s : State) (a : Byte) : (s.hostRead a).err = s.err := rfl
@[simp] theorem State.hostRead_keylen (s : State) (a : Byte) : (s.hostRead a).keylen = s.keylen := rfl
@[simp] theorem State.hostRead_len (s : State) (a : Byte) : (s.hostRead a).len = s.len := rfl
@[simp] theorem State.hostRead_keyIn (s : State) (a : Byte) : (s.hostRead a).keyIn = s.keyIn := rfl
@[simp] theorem State.hostRead_blkIn (s : State) (a : Byte) : (s.hostRead a).blkIn = s.blkIn := rfl
@[simp] theorem State.hostRead_blkOut (s : State) (a : Byte) : (s.hostRead a).blkOut = s.blkOut := rfl
@[simp] theorem State.hostRead_host (s : State) (a : Byte) : (s.hostRead a).host = { s.host with reads := s.regRead a :: s.host.reads } := rfl

@[simp] theorem State.latch_cfg (s : State) (op : Byte) : (s.latch op).cfg = s.cfg := rfl
@[simp] theorem State.latch_key (s : State) (op : Byte) : (s.latch op).key = s.key := rfl
@[simp] theorem State.latch_keyv (s : State) (op : Byte) : (s.latch op).keyv = s.keyv := rfl
@[simp] theorem State.latch_machines (s : State) (op : Byte) : (s.latch op).machines = s.machines := rfl
@[simp] theorem State.latch_built (s : State) (op : Byte) : (s.latch op).built = s.built := rfl
@[simp] theorem State.latch_sk (s : State) (op : Byte) : (s.latch op).sk = s.sk := rfl
@[simp] theorem State.latch_prev (s : State) (op : Byte) : (s.latch op).prev = s.prev := rfl
@[simp] theorem State.latch_mode (s : State) (op : Byte) : (s.latch op).mode = s.mode := rfl
@[simp] theorem State.latch_remain (s : State) (op : Byte) : (s.latch op).remain = s.remain := rfl
@[simp] theorem State.latch_busy (s : State) (op : Byte) : (s.latch op).busy = true := rfl
@[simp] theorem State.latch_pend (s : State) (op : Byte) : (s.latch op).pend = s.snapshot op := rfl
@[simp] theorem State.latch_ovr (s : State) (op : Byte) : (s.latch op).ovr = s.ovr := rfl
@[simp] theorem State.latch_tfault (s : State) (op : Byte) : (s.latch op).tfault = s.tfault := rfl
@[simp] theorem State.latch_err (s : State) (op : Byte) : (s.latch op).err = s.err := rfl
@[simp] theorem State.latch_keylen (s : State) (op : Byte) : (s.latch op).keylen = s.keylen := rfl
@[simp] theorem State.latch_len (s : State) (op : Byte) : (s.latch op).len = s.len := rfl
@[simp] theorem State.latch_keyIn (s : State) (op : Byte) : (s.latch op).keyIn = s.keyIn := rfl
@[simp] theorem State.latch_blkIn (s : State) (op : Byte) : (s.latch op).blkIn = s.blkIn := rfl
@[simp] theorem State.latch_blkOut (s : State) (op : Byte) : (s.latch op).blkOut = s.blkOut := rfl
@[simp] theorem State.latch_host (s : State) (op : Byte) : (s.latch op).host = s.host := rfl

@[simp] theorem State.complete_cfg (s : State) : s.complete.cfg = s.cfg := rfl
@[simp] theorem State.complete_key (s : State) : s.complete.key = s.key := rfl
@[simp] theorem State.complete_keyv (s : State) : s.complete.keyv = s.keyv := rfl
@[simp] theorem State.complete_machines (s : State) : s.complete.machines = s.machines := rfl
@[simp] theorem State.complete_built (s : State) : s.complete.built = s.built := rfl
@[simp] theorem State.complete_sk (s : State) : s.complete.sk = s.sk := rfl
@[simp] theorem State.complete_prev (s : State) : s.complete.prev = s.prev := rfl
@[simp] theorem State.complete_mode (s : State) : s.complete.mode = s.mode := rfl
@[simp] theorem State.complete_remain (s : State) : s.complete.remain = s.remain := rfl
@[simp] theorem State.complete_busy (s : State) : s.complete.busy = false := rfl
@[simp] theorem State.complete_pend (s : State) : s.complete.pend = s.pend := rfl
@[simp] theorem State.complete_ovr (s : State) : s.complete.ovr = s.ovr := rfl
@[simp] theorem State.complete_tfault (s : State) : s.complete.tfault = s.tfault := rfl
@[simp] theorem State.complete_err (s : State) : s.complete.err = 0 := rfl
@[simp] theorem State.complete_keylen (s : State) : s.complete.keylen = s.keylen := rfl
@[simp] theorem State.complete_len (s : State) : s.complete.len = s.len := rfl
@[simp] theorem State.complete_keyIn (s : State) : s.complete.keyIn = s.keyIn := rfl
@[simp] theorem State.complete_blkIn (s : State) : s.complete.blkIn = s.blkIn := rfl
@[simp] theorem State.complete_blkOut (s : State) : s.complete.blkOut = s.blkOut := rfl
@[simp] theorem State.complete_host (s : State) : s.complete.host = s.host := rfl

@[simp] theorem State.raiseError_cfg (s : State) (e : ErrCode) : (s.raiseError e).cfg = s.cfg := rfl
@[simp] theorem State.raiseError_key (s : State) (e : ErrCode) : (s.raiseError e).key = s.key := rfl
@[simp] theorem State.raiseError_keyv (s : State) (e : ErrCode) : (s.raiseError e).keyv = s.keyv := rfl
@[simp] theorem State.raiseError_machines (s : State) (e : ErrCode) : (s.raiseError e).machines = s.machines := rfl
@[simp] theorem State.raiseError_built (s : State) (e : ErrCode) : (s.raiseError e).built = s.built := rfl
@[simp] theorem State.raiseError_sk (s : State) (e : ErrCode) : (s.raiseError e).sk = s.sk := rfl
@[simp] theorem State.raiseError_prev (s : State) (e : ErrCode) : (s.raiseError e).prev = s.prev := rfl
@[simp] theorem State.raiseError_mode (s : State) (e : ErrCode) : (s.raiseError e).mode = s.mode := rfl
@[simp] theorem State.raiseError_remain (s : State) (e : ErrCode) : (s.raiseError e).remain = s.remain := rfl
@[simp] theorem State.raiseError_busy (s : State) (e : ErrCode) : (s.raiseError e).busy = false := rfl
@[simp] theorem State.raiseError_pend (s : State) (e : ErrCode) : (s.raiseError e).pend = s.pend := rfl
@[simp] theorem State.raiseError_ovr (s : State) (e : ErrCode) : (s.raiseError e).ovr = s.ovr := rfl
@[simp] theorem State.raiseError_tfault (s : State) (e : ErrCode) : (s.raiseError e).tfault = s.tfault := rfl
@[simp] theorem State.raiseError_err (s : State) (e : ErrCode) : (s.raiseError e).err = e.code := rfl
@[simp] theorem State.raiseError_keylen (s : State) (e : ErrCode) : (s.raiseError e).keylen = s.keylen := rfl
@[simp] theorem State.raiseError_len (s : State) (e : ErrCode) : (s.raiseError e).len = s.len := rfl
@[simp] theorem State.raiseError_keyIn (s : State) (e : ErrCode) : (s.raiseError e).keyIn = s.keyIn := rfl
@[simp] theorem State.raiseError_blkIn (s : State) (e : ErrCode) : (s.raiseError e).blkIn = s.blkIn := rfl
@[simp] theorem State.raiseError_blkOut (s : State) (e : ErrCode) : (s.raiseError e).blkOut = s.blkOut := rfl
@[simp] theorem State.raiseError_host (s : State) (e : ErrCode) : (s.raiseError e).host = s.host := rfl

@[simp] theorem State.endSession_cfg (s : State) : s.endSession.cfg = s.cfg := rfl
@[simp] theorem State.endSession_key (s : State) : s.endSession.key = s.key := rfl
@[simp] theorem State.endSession_keyv (s : State) : s.endSession.keyv = s.keyv := rfl
@[simp] theorem State.endSession_machines (s : State) : s.endSession.machines = s.machines := rfl
@[simp] theorem State.endSession_built (s : State) : s.endSession.built = s.built := rfl
@[simp] theorem State.endSession_sk (s : State) : s.endSession.sk = s.sk := rfl
@[simp] theorem State.endSession_prev (s : State) : s.endSession.prev = zeroBlock := rfl
@[simp] theorem State.endSession_mode (s : State) : s.endSession.mode = .idle := rfl
@[simp] theorem State.endSession_remain (s : State) : s.endSession.remain = 0 := rfl
@[simp] theorem State.endSession_busy (s : State) : s.endSession.busy = s.busy := rfl
@[simp] theorem State.endSession_pend (s : State) : s.endSession.pend = s.pend := rfl
@[simp] theorem State.endSession_ovr (s : State) : s.endSession.ovr = s.ovr := rfl
@[simp] theorem State.endSession_tfault (s : State) : s.endSession.tfault = s.tfault := rfl
@[simp] theorem State.endSession_err (s : State) : s.endSession.err = s.err := rfl
@[simp] theorem State.endSession_keylen (s : State) : s.endSession.keylen = s.keylen := rfl
@[simp] theorem State.endSession_len (s : State) : s.endSession.len = s.len := rfl
@[simp] theorem State.endSession_keyIn (s : State) : s.endSession.keyIn = s.keyIn := rfl
@[simp] theorem State.endSession_blkIn (s : State) : s.endSession.blkIn = s.blkIn := rfl
@[simp] theorem State.endSession_blkOut (s : State) : s.endSession.blkOut = s.blkOut := rfl
@[simp] theorem State.endSession_host (s : State) : s.endSession.host = s.host := rfl

@[simp] theorem State.beginSession_cfg (s : State) (m : Mode) (n : Word32) : (s.beginSession m n).cfg = s.cfg := rfl
@[simp] theorem State.beginSession_key (s : State) (m : Mode) (n : Word32) : (s.beginSession m n).key = s.key := rfl
@[simp] theorem State.beginSession_keyv (s : State) (m : Mode) (n : Word32) : (s.beginSession m n).keyv = s.keyv := rfl
@[simp] theorem State.beginSession_machines (s : State) (m : Mode) (n : Word32) : (s.beginSession m n).machines = s.machines := rfl
@[simp] theorem State.beginSession_built (s : State) (m : Mode) (n : Word32) : (s.beginSession m n).built = s.built := rfl
@[simp] theorem State.beginSession_sk (s : State) (m : Mode) (n : Word32) : (s.beginSession m n).sk = s.sk := rfl
@[simp] theorem State.beginSession_prev (s : State) (m : Mode) (n : Word32) : (s.beginSession m n).prev = zeroBlock := rfl
@[simp] theorem State.beginSession_mode (s : State) (m : Mode) (n : Word32) : (s.beginSession m n).mode = m := rfl
@[simp] theorem State.beginSession_remain (s : State) (m : Mode) (n : Word32) : (s.beginSession m n).remain = n := rfl
@[simp] theorem State.beginSession_busy (s : State) (m : Mode) (n : Word32) : (s.beginSession m n).busy = s.busy := rfl
@[simp] theorem State.beginSession_pend (s : State) (m : Mode) (n : Word32) : (s.beginSession m n).pend = s.pend := rfl
@[simp] theorem State.beginSession_ovr (s : State) (m : Mode) (n : Word32) : (s.beginSession m n).ovr = s.ovr := rfl
@[simp] theorem State.beginSession_tfault (s : State) (m : Mode) (n : Word32) : (s.beginSession m n).tfault = s.tfault := rfl
@[simp] theorem State.beginSession_err (s : State) (m : Mode) (n : Word32) : (s.beginSession m n).err = s.err := rfl
@[simp] theorem State.beginSession_keylen (s : State) (m : Mode) (n : Word32) : (s.beginSession m n).keylen = s.keylen := rfl
@[simp] theorem State.beginSession_len (s : State) (m : Mode) (n : Word32) : (s.beginSession m n).len = s.len := rfl
@[simp] theorem State.beginSession_keyIn (s : State) (m : Mode) (n : Word32) : (s.beginSession m n).keyIn = s.keyIn := rfl
@[simp] theorem State.beginSession_blkIn (s : State) (m : Mode) (n : Word32) : (s.beginSession m n).blkIn = s.blkIn := rfl
@[simp] theorem State.beginSession_blkOut (s : State) (m : Mode) (n : Word32) : (s.beginSession m n).blkOut = s.blkOut := rfl
@[simp] theorem State.beginSession_host (s : State) (m : Mode) (n : Word32) : (s.beginSession m n).host = s.host := rfl

@[simp] theorem State.loadKey_cfg (s : State) : s.loadKey.cfg = s.cfg := rfl
@[simp] theorem State.loadKey_key (s : State) : s.loadKey.key = s.keyOperand := rfl
@[simp] theorem State.loadKey_keyv (s : State) : s.loadKey.keyv = true := rfl
@[simp] theorem State.loadKey_machines (s : State) : s.loadKey.machines = s.machines := rfl
@[simp] theorem State.loadKey_built (s : State) : s.loadKey.built = false := rfl
@[simp] theorem State.loadKey_sk (s : State) : s.loadKey.sk = s.sk := rfl
@[simp] theorem State.loadKey_prev (s : State) : s.loadKey.prev = s.prev := rfl
@[simp] theorem State.loadKey_mode (s : State) : s.loadKey.mode = s.mode := rfl
@[simp] theorem State.loadKey_remain (s : State) : s.loadKey.remain = s.remain := rfl
@[simp] theorem State.loadKey_busy (s : State) : s.loadKey.busy = s.busy := rfl
@[simp] theorem State.loadKey_pend (s : State) : s.loadKey.pend = s.pend := rfl
@[simp] theorem State.loadKey_ovr (s : State) : s.loadKey.ovr = s.ovr := rfl
@[simp] theorem State.loadKey_tfault (s : State) : s.loadKey.tfault = s.tfault := rfl
@[simp] theorem State.loadKey_err (s : State) : s.loadKey.err = s.err := rfl
@[simp] theorem State.loadKey_keylen (s : State) : s.loadKey.keylen = s.keylen := rfl
@[simp] theorem State.loadKey_len (s : State) : s.loadKey.len = s.len := rfl
@[simp] theorem State.loadKey_keyIn (s : State) : s.loadKey.keyIn = s.keyIn := rfl
@[simp] theorem State.loadKey_blkIn (s : State) : s.loadKey.blkIn = s.blkIn := rfl
@[simp] theorem State.loadKey_blkOut (s : State) : s.loadKey.blkOut = s.blkOut := rfl
@[simp] theorem State.loadKey_host (s : State) : s.loadKey.host = s.host := rfl

@[simp] theorem State.scheduleStep_cfg (s : State) : s.scheduleStep.cfg = s.cfg := rfl
@[simp] theorem State.scheduleStep_key (s : State) : s.scheduleStep.key = s.key := rfl
@[simp] theorem State.scheduleStep_keyv (s : State) : s.scheduleStep.keyv = s.keyv := rfl
@[simp] theorem State.scheduleStep_machines (s : State) : s.scheduleStep.machines = (schedule s.cfg s.key (!s.built) s.rotorFile).machines := rfl
@[simp] theorem State.scheduleStep_built (s : State) : s.scheduleStep.built = true := rfl
@[simp] theorem State.scheduleStep_sk (s : State) : s.scheduleStep.sk = (schedule s.cfg s.key (!s.built) s.rotorFile).sk := rfl
@[simp] theorem State.scheduleStep_prev (s : State) : s.scheduleStep.prev = s.prev := rfl
@[simp] theorem State.scheduleStep_mode (s : State) : s.scheduleStep.mode = s.mode := rfl
@[simp] theorem State.scheduleStep_remain (s : State) : s.scheduleStep.remain = s.remain := rfl
@[simp] theorem State.scheduleStep_busy (s : State) : s.scheduleStep.busy = s.busy := rfl
@[simp] theorem State.scheduleStep_pend (s : State) : s.scheduleStep.pend = s.pend := rfl
@[simp] theorem State.scheduleStep_ovr (s : State) : s.scheduleStep.ovr = s.ovr := rfl
@[simp] theorem State.scheduleStep_tfault (s : State) : s.scheduleStep.tfault = s.tfault := rfl
@[simp] theorem State.scheduleStep_err (s : State) : s.scheduleStep.err = s.err := rfl
@[simp] theorem State.scheduleStep_keylen (s : State) : s.scheduleStep.keylen = s.keylen := rfl
@[simp] theorem State.scheduleStep_len (s : State) : s.scheduleStep.len = s.len := rfl
@[simp] theorem State.scheduleStep_keyIn (s : State) : s.scheduleStep.keyIn = s.keyIn := rfl
@[simp] theorem State.scheduleStep_blkIn (s : State) : s.scheduleStep.blkIn = s.blkIn := rfl
@[simp] theorem State.scheduleStep_blkOut (s : State) : s.scheduleStep.blkOut = s.blkOut := rfl
@[simp] theorem State.scheduleStep_host (s : State) : s.scheduleStep.host = s.host := rfl

@[simp] theorem State.afterReset_cfg (c : Config) (h : HostPort) : (State.afterReset c h).cfg = c := rfl
@[simp] theorem State.afterReset_key (c : Config) (h : HostPort) : (State.afterReset c h).key = zeroBlock := rfl
@[simp] theorem State.afterReset_keyv (c : Config) (h : HostPort) : (State.afterReset c h).keyv = false := rfl
@[simp] theorem State.afterReset_machines (c : Config) (h : HostPort) : (State.afterReset c h).machines = (Vector.replicate 16 RotorMachine.unbuilt) := rfl
@[simp] theorem State.afterReset_built (c : Config) (h : HostPort) : (State.afterReset c h).built = false := rfl
@[simp] theorem State.afterReset_sk (c : Config) (h : HostPort) : (State.afterReset c h).sk = (Vector.replicate 16 zeroBlock) := rfl
@[simp] theorem State.afterReset_prev (c : Config) (h : HostPort) : (State.afterReset c h).prev = zeroBlock := rfl
@[simp] theorem State.afterReset_mode (c : Config) (h : HostPort) : (State.afterReset c h).mode = .idle := rfl
@[simp] theorem State.afterReset_remain (c : Config) (h : HostPort) : (State.afterReset c h).remain = 0 := rfl
@[simp] theorem State.afterReset_busy (c : Config) (h : HostPort) : (State.afterReset c h).busy = false := rfl
@[simp] theorem State.afterReset_pend (c : Config) (h : HostPort) : (State.afterReset c h).pend = Pend.empty := rfl
@[simp] theorem State.afterReset_ovr (c : Config) (h : HostPort) : (State.afterReset c h).ovr = false := rfl
@[simp] theorem State.afterReset_tfault (c : Config) (h : HostPort) : (State.afterReset c h).tfault = (!selfCheck c) := rfl
@[simp] theorem State.afterReset_err (c : Config) (h : HostPort) : (State.afterReset c h).err = 0 := rfl
@[simp] theorem State.afterReset_keylen (c : Config) (h : HostPort) : (State.afterReset c h).keylen = 0 := rfl
@[simp] theorem State.afterReset_len (c : Config) (h : HostPort) : (State.afterReset c h).len = 0 := rfl
@[simp] theorem State.afterReset_keyIn (c : Config) (h : HostPort) : (State.afterReset c h).keyIn = zeroBlock := rfl
@[simp] theorem State.afterReset_blkIn (c : Config) (h : HostPort) : (State.afterReset c h).blkIn = zeroBlock := rfl
@[simp] theorem State.afterReset_blkOut (c : Config) (h : HostPort) : (State.afterReset c h).blkOut = zeroBlock := rfl
@[simp] theorem State.afterReset_host (c : Config) (h : HostPort) : (State.afterReset c h).host = h := rfl

/-- What the end of a block command leaves in each field it writes, and that it writes no other (R206, R209, R211). -/
theorem State.finishBlock_eq (s : State) (out prev : Block) (n : Nat) :
    s.finishBlock out prev n =
      if s.remain - BitVec.ofNat 32 n = 0 then { s with blkOut := out, prev := zeroBlock, remain := 0, mode := .idle }
      else { s with blkOut := out, prev := prev, remain := s.remain - BitVec.ofNat 32 n } := rfl

@[simp] theorem State.finishBlock_cfg (s : State) (out prev : Block) (n : Nat) : (s.finishBlock out prev n).cfg = s.cfg := by
  rw [State.finishBlock_eq]; split <;> rfl
@[simp] theorem State.finishBlock_key (s : State) (out prev : Block) (n : Nat) : (s.finishBlock out prev n).key = s.key := by
  rw [State.finishBlock_eq]; split <;> rfl
@[simp] theorem State.finishBlock_keyv (s : State) (out prev : Block) (n : Nat) : (s.finishBlock out prev n).keyv = s.keyv := by
  rw [State.finishBlock_eq]; split <;> rfl
@[simp] theorem State.finishBlock_machines (s : State) (out prev : Block) (n : Nat) : (s.finishBlock out prev n).machines = s.machines := by
  rw [State.finishBlock_eq]; split <;> rfl
@[simp] theorem State.finishBlock_built (s : State) (out prev : Block) (n : Nat) : (s.finishBlock out prev n).built = s.built := by
  rw [State.finishBlock_eq]; split <;> rfl
@[simp] theorem State.finishBlock_sk (s : State) (out prev : Block) (n : Nat) : (s.finishBlock out prev n).sk = s.sk := by
  rw [State.finishBlock_eq]; split <;> rfl
@[simp] theorem State.finishBlock_busy (s : State) (out prev : Block) (n : Nat) : (s.finishBlock out prev n).busy = s.busy := by
  rw [State.finishBlock_eq]; split <;> rfl
@[simp] theorem State.finishBlock_pend (s : State) (out prev : Block) (n : Nat) : (s.finishBlock out prev n).pend = s.pend := by
  rw [State.finishBlock_eq]; split <;> rfl
@[simp] theorem State.finishBlock_ovr (s : State) (out prev : Block) (n : Nat) : (s.finishBlock out prev n).ovr = s.ovr := by
  rw [State.finishBlock_eq]; split <;> rfl
@[simp] theorem State.finishBlock_tfault (s : State) (out prev : Block) (n : Nat) : (s.finishBlock out prev n).tfault = s.tfault := by
  rw [State.finishBlock_eq]; split <;> rfl
@[simp] theorem State.finishBlock_err (s : State) (out prev : Block) (n : Nat) : (s.finishBlock out prev n).err = s.err := by
  rw [State.finishBlock_eq]; split <;> rfl
@[simp] theorem State.finishBlock_keylen (s : State) (out prev : Block) (n : Nat) : (s.finishBlock out prev n).keylen = s.keylen := by
  rw [State.finishBlock_eq]; split <;> rfl
@[simp] theorem State.finishBlock_len (s : State) (out prev : Block) (n : Nat) : (s.finishBlock out prev n).len = s.len := by
  rw [State.finishBlock_eq]; split <;> rfl
@[simp] theorem State.finishBlock_keyIn (s : State) (out prev : Block) (n : Nat) : (s.finishBlock out prev n).keyIn = s.keyIn := by
  rw [State.finishBlock_eq]; split <;> rfl
@[simp] theorem State.finishBlock_blkIn (s : State) (out prev : Block) (n : Nat) : (s.finishBlock out prev n).blkIn = s.blkIn := by
  rw [State.finishBlock_eq]; split <;> rfl
@[simp] theorem State.finishBlock_host (s : State) (out prev : Block) (n : Nat) : (s.finishBlock out prev n).host = s.host := by
  rw [State.finishBlock_eq]; split <;> rfl
@[simp] theorem State.finishBlock_blkOut (s : State) (out prev : Block) (n : Nat) : (s.finishBlock out prev n).blkOut = out := by
  rw [State.finishBlock_eq]; split <;> rfl
@[simp] theorem State.finishBlock_remain (s : State) (out prev : Block) (n : Nat) :
    (s.finishBlock out prev n).remain = s.remain - BitVec.ofNat 32 n := by
  rw [State.finishBlock_eq]; split <;> simp_all
@[simp] theorem State.finishBlock_prev (s : State) (out prev : Block) (n : Nat) :
    (s.finishBlock out prev n).prev = if s.remain - BitVec.ofNat 32 n = 0 then zeroBlock else prev := by
  rw [State.finishBlock_eq]; split <;> rfl
@[simp] theorem State.finishBlock_mode (s : State) (out prev : Block) (n : Nat) :
    (s.finishBlock out prev n).mode = if s.remain - BitVec.ofNat 32 n = 0 then .idle else s.mode := by
  rw [State.finishBlock_eq]; split <;> rfl

end Sys2Proof.Machine
end

