-- ==== Sys2Proof/Laws/Ops.lean ====
section
/-! SUPPORT. What the shared operations over the registers can do: one lemma per operation (spec/20_memory.md rules R60-R67,
spec/44_commands.md rules R200, R211). -/

namespace Sys2Proof.Machine

/-! ### The register map -/

@[simp] theorem regAt_cmd : regAt (Reg.address .cmd) = .cmd := rfl
@[simp] theorem regAt_status : regAt (Reg.address .status) = .status := rfl
@[simp] theorem regAt_err : regAt (Reg.address .err) = .err := rfl
@[simp] theorem regAt_keylen : regAt (Reg.address .keylen) = .keylen := rfl
@[simp] theorem regAt_len (i : Fin 4) : regAt (Reg.address (.len i)) = .len i := by fin_cases i <;> rfl
@[simp] theorem regAt_remain (i : Fin 4) : regAt (Reg.address (.remain i)) = .remain i := by fin_cases i <;> rfl
@[simp] theorem regAt_keyIn (i : Fin 16) : regAt (Reg.address (.keyIn i)) = .keyIn i := by fin_cases i <;> rfl
@[simp] theorem regAt_blkIn (i : Fin 16) : regAt (Reg.address (.blkIn i)) = .blkIn i := by fin_cases i <;> rfl
@[simp] theorem regAt_blkOut (i : Fin 16) : regAt (Reg.address (.blkOut i)) = .blkOut i := by fin_cases i <;> rfl

/-- Every address is the address of the register that stands at it (R62). -/
theorem address_regAt (a : Byte) : Reg.address (regAt a) = a := by revert a; decide +kernel

/-! ### Host accesses -/

/-- What a register write can do: issue a command, clear OVR, store one operand byte, or nothing (R64, R66, R67). -/
theorem State.regWrite_cases (s : State) (a v : Byte) :
    s.regWrite a v = s.writeCmd v ∧ regAt a = .cmd ∨ s.regWrite a v = s.writeStatus v ∧ regAt a = .status ∨
      (∃ k l x y, s.regWrite a v = { s with keylen := k, len := l, keyIn := x, blkIn := y }) := by
  unfold State.regWrite
  cases h : regAt a with
  | cmd => exact .inl ⟨rfl, rfl⟩
  | status => exact .inr (.inl ⟨rfl, rfl⟩)
  | keylen => exact .inr (.inr ⟨v, s.len, s.keyIn, s.blkIn, rfl⟩)
  | len i => exact .inr (.inr ⟨s.keylen, _, s.keyIn, s.blkIn, rfl⟩)
  | keyIn i => exact .inr (.inr ⟨s.keylen, s.len, _, s.blkIn, rfl⟩)
  | blkIn i => exact .inr (.inr ⟨s.keylen, s.len, s.keyIn, _, rfl⟩)
  | err => exact .inr (.inr ⟨s.keylen, s.len, s.keyIn, s.blkIn, rfl⟩)
  | remain i => exact .inr (.inr ⟨s.keylen, s.len, s.keyIn, s.blkIn, rfl⟩)
  | blkOut i => exact .inr (.inr ⟨s.keylen, s.len, s.keyIn, s.blkIn, rfl⟩)
  | reserved b => exact .inr (.inr ⟨s.keylen, s.len, s.keyIn, s.blkIn, rfl⟩)

/-- The one effect of a STATUS write: OVR (R40). -/
theorem State.writeStatus_eq (s : State) (v : Byte) : s.writeStatus v = { s with ovr := s.ovr && !v.getLsbD 6 } := by
  unfold State.writeStatus
  cases h : v.getLsbD 6 <;> simp

/-- The two effects of a CMD write (R67). -/
theorem State.writeCmd_busy {s : State} (h : s.busy = true) (v : Byte) : s.writeCmd v = { s with ovr := true } := by
  simp [State.writeCmd, h]

theorem State.writeCmd_idle {s : State} (h : s.busy = false) (v : Byte) : s.writeCmd v = s.latch v := by
  simp [State.writeCmd, h]

/-- No register write touches the rest of the block's state (R66, R67). -/
theorem State.regWrite_frame (s : State) (a v : Byte) :
    (s.regWrite a v).cfg = s.cfg ∧ (s.regWrite a v).key = s.key ∧ (s.regWrite a v).keyv = s.keyv ∧
      (s.regWrite a v).machines = s.machines ∧ (s.regWrite a v).built = s.built ∧ (s.regWrite a v).sk = s.sk ∧
      (s.regWrite a v).prev = s.prev ∧ (s.regWrite a v).mode = s.mode ∧ (s.regWrite a v).remain = s.remain ∧
      (s.regWrite a v).tfault = s.tfault ∧ (s.regWrite a v).err = s.err ∧ (s.regWrite a v).blkOut = s.blkOut ∧
      (s.regWrite a v).host = s.host := by
  rcases s.regWrite_cases a v with ⟨h, -⟩ | ⟨h, -⟩ | ⟨k, l, x, y, h⟩
  · rw [h, State.writeCmd]; split <;> exact ⟨rfl, rfl, rfl, rfl, rfl, rfl, rfl, rfl, rfl, rfl, rfl, rfl, rfl⟩
  · rw [h, State.writeStatus_eq]; exact ⟨rfl, rfl, rfl, rfl, rfl, rfl, rfl, rfl, rfl, rfl, rfl, rfl, rfl⟩
  · rw [h]; exact ⟨rfl, rfl, rfl, rfl, rfl, rfl, rfl, rfl, rfl, rfl, rfl, rfl, rfl⟩

/-! ### The engine and the bus -/

/-- A latched legal command: the engine step is Execute (R200). -/
theorem engineStep_ok {s : State} {i : Instr} (hb : s.busy = true) (hd : decode s.pend.op = .ok i) :
    engineStep s = exec i s := by simp [engineStep, hb, hd]

/-- A latched illegal byte (R93). -/
theorem engineStep_illegal {s : State} {e : IllegalByte} (hb : s.busy = true) (hd : decode s.pend.op = .error e) :
    engineStep s = .next s.illegalCommand := by simp [engineStep, hb, hd]

/-- Nothing latched: the engine has no step (R200, R255). -/
theorem engineStep_idle {s : State} (hb : s.busy = false) : engineStep s = .next s := by simp [engineStep, hb]

/-- Everything an engine step can be. -/
theorem engineStep_cases (s : State) :
    s.busy = false ∧ engineStep s = .next s ∨
      (∃ i, s.busy = true ∧ decode s.pend.op = .ok i ∧ engineStep s = exec i s) ∨
      (∃ e, s.busy = true ∧ decode s.pend.op = .error e ∧ engineStep s = .next s.illegalCommand) := by
  cases hb : s.busy with
  | false => exact .inl ⟨rfl, engineStep_idle hb⟩
  | true =>
    cases hd : decode s.pend.op with
    | ok i => exact .inr (.inl ⟨i, rfl, rfl, engineStep_ok hb hd⟩)
    | error e => exact .inr (.inr ⟨e, rfl, rfl, engineStep_illegal hb hd⟩)

theorem State.illegalCommand_eq (s : State) :
    s.illegalCommand = s.raiseError (if s.tfault then .tableFault else .badOpcode) := by
  unfold State.illegalCommand; split <;> rfl

/-- Everything a step can be: the engine's own turn when no event is placed, else the oldest event (R74). -/
theorem busStep_cases (s : State) :
    s.host.pending = [] ∧ s.busStep = engineStep s ∨
      (∃ a rest, s.host.pending = .read a :: rest ∧ s.busStep = .next ((s.withPending rest).hostRead a)) ∨
      (∃ a v rest, s.host.pending = .write a v :: rest ∧ s.busStep = .next ((s.withPending rest).regWrite a v)) ∨
      (∃ rest, s.host.pending = .engine :: rest ∧ s.busStep = engineStep (s.withPending rest)) ∨
      (∃ rest, s.host.pending = .reset :: rest ∧
        s.busStep = .next (State.afterReset s.cfg (s.withPending rest).host)) := by
  unfold State.busStep
  cases h : s.host.pending with
  | nil => exact .inl ⟨rfl, rfl⟩
  | cons e rest =>
    cases e with
    | read a => exact .inr (.inl ⟨a, rest, rfl, rfl⟩)
    | write a v => exact .inr (.inr (.inl ⟨a, v, rest, rfl, rfl⟩))
    | engine => exact .inr (.inr (.inr (.inl ⟨rest, rfl, rfl⟩)))
    | reset => exact .inr (.inr (.inr (.inr ⟨rest, rfl, rfl⟩)))

end Sys2Proof.Machine
end

