-- ==== Sys2Proof/Laws/Exec.lean ====
section
/-! SUPPORT. What each command can do, said once: the cases of its meaning (spec/44_commands.md rules R202-R212). Later
proofs cite these lemmas instead of unfolding a meaning. -/

namespace Sys2Proof.Machine

/-- What a command can do: reject with a code and nothing else (R243), or succeed with one of the effects below. -/
inductive Effect (s : State) : Instr → State → Prop
  /-- a rejection, by a code that is not OK -/
  | rejected (i : Instr) (e : ErrCode) (h : e ≠ .ok) : Effect s i (s.raiseError e)
  | nop (ht : s.tfault = false) : Effect s .nop s.complete
  | loadKey (ht : s.tfault = false) (hm : s.mode = .idle) (hk : s.keylenOperand = 16) :
      Effect s .loadKey s.loadKey.complete
  | encEmpty (ht : s.tfault = false) (hm : s.mode = .idle) (hk : s.keyv = true) (hl : s.lenOperand = 0) :
      Effect s .encBegin s.complete
  | encBegin (ht : s.tfault = false) (hm : s.mode = .idle) (hk : s.keyv = true) (hl : s.lenOperand ≠ 0) :
      Effect s .encBegin (s.beginSession .enc s.lenOperand).complete
  | encBlock (ht : s.tfault = false) (hm : s.mode = .enc) : Effect s .encBlock s.encryptBlock.complete
  | decEmpty (ht : s.tfault = false) (hm : s.mode = .idle) (hk : s.keyv = true) (hl : s.lenOperand = 0) :
      Effect s .decBegin s.complete
  | decBegin (ht : s.tfault = false) (hm : s.mode = .idle) (hk : s.keyv = true) (hl : s.lenOperand ≠ 0)
      (ha : s.lenOperand.toNat % 16 = 0) : Effect s .decBegin (s.beginSession .dec s.lenOperand).complete
  | decBlock (ht : s.tfault = false) (hm : s.mode = .dec) : Effect s .decBlock s.decryptBlock.complete
  | endSession (ht : s.tfault = false) : Effect s .endSession s.endSession.complete

/-- A command always completes with one of its effects (R200, R243). -/
theorem exec_effect (i : Instr) (s : State) : ∃ t, exec i s = .next t ∧ Effect s i t := by
  cases i with
  | nop =>
    refine ⟨_, rfl, ?_⟩
    split
    · exact .rejected _ _ (by decide)
    · exact .nop (by simp_all)
  | loadKey =>
    refine ⟨_, rfl, ?_⟩
    split
    · exact .rejected _ _ (by decide)
    · split
      · exact .rejected _ _ (by decide)
      · split
        · exact .rejected _ _ (by decide)
        · exact .loadKey (by simp_all) (by simp_all) (by simp_all)
  | encBegin =>
    refine ⟨_, rfl, ?_⟩
    split
    · exact .rejected _ _ (by decide)
    · split
      · exact .rejected _ _ (by decide)
      · split
        · exact .rejected _ _ (by decide)
        · split
          · exact .encEmpty (by simp_all) (by simp_all) (by simp_all) (by simp_all)
          · exact .encBegin (by simp_all) (by simp_all) (by simp_all) (by simp_all)
  | encBlock =>
    refine ⟨_, rfl, ?_⟩
    split
    · exact .rejected _ _ (by decide)
    · split
      · exact .rejected _ _ (by decide)
      · exact .encBlock (by simp_all) (by simp_all)
  | decBegin =>
    refine ⟨_, rfl, ?_⟩
    split
    · exact .rejected _ _ (by decide)
    · split
      · exact .rejected _ _ (by decide)
      · split
        · exact .rejected _ _ (by decide)
        · split
          · exact .rejected _ _ (by decide)
          · split
            · exact .decEmpty (by simp_all) (by simp_all) (by simp_all) (by simp_all)
            · exact .decBegin (by simp_all) (by simp_all) (by simp_all) (by simp_all) (by simp_all)
  | decBlock =>
    refine ⟨_, rfl, ?_⟩
    split
    · exact .rejected _ _ (by decide)
    · split
      · exact .rejected _ _ (by decide)
      · exact .decBlock (by simp_all) (by simp_all)
  | endSession =>
    refine ⟨_, rfl, ?_⟩
    split
    · exact .rejected _ _ (by decide)
    · exact .endSession (by simp_all)

/-- If a command answers a next state, that state is one of its effects. -/
theorem exec_cases {i : Instr} {s t : State} (h : exec i s = .next t) : Effect s i t := by
  obtain ⟨u, hu, he⟩ := exec_effect i s
  rw [h] at hu
  cases hu
  exact he

end Sys2Proof.Machine
end

