-- ==== Sys2Proof/Laws/Ports.lean ====
section
/-! SUPPORT. What no command reads: the live operand registers, OVR and the host's side of the bus (spec/10_state.md rules R31,
R32, spec/30_encoding.md rule R91). A command does the same whatever they hold. -/

namespace Sys2Proof.Machine

/-- The part of a state that no command reads or writes. -/
structure Ports where
  ovr : Bool
  keylen : Byte
  len : Word32
  keyIn : Block
  blkIn : Block
  host : HostPort

/-- The ports of a state. -/
def State.ports (s : State) : Ports := ⟨s.ovr, s.keylen, s.len, s.keyIn, s.blkIn, s.host⟩

/-- A state with its ports replaced. -/
def State.withPorts (s : State) (p : Ports) : State :=
  { s with ovr := p.ovr, keylen := p.keylen, len := p.len, keyIn := p.keyIn, blkIn := p.blkIn, host := p.host }

@[simp] theorem State.withPorts_ports (s : State) : s.withPorts s.ports = s := rfl
@[simp] theorem State.ports_withPorts (s : State) (p : Ports) : (s.withPorts p).ports = p := rfl
@[simp] theorem State.withPorts_withPorts (s : State) (p q : Ports) : (s.withPorts p).withPorts q = s.withPorts q := rfl
@[simp] theorem State.withPorts_busy (s : State) (p : Ports) : (s.withPorts p).busy = s.busy := rfl
@[simp] theorem State.withPorts_pend (s : State) (p : Ports) : (s.withPorts p).pend = s.pend := rfl

theorem State.finishBlock_withPorts (s : State) (p : Ports) (out prev : Block) (n : Nat) :
    (s.withPorts p).finishBlock out prev n = (s.finishBlock out prev n).withPorts p := by
  rw [State.finishBlock, State.finishBlock]
  exact Eq.symm (apply_ite (State.withPorts · p) (s.remain - BitVec.ofNat 32 n = 0) _ _)

theorem State.encryptBlock_withPorts (s : State) (p : Ports) :
    (s.withPorts p).encryptBlock = s.encryptBlock.withPorts p := s.scheduleStep.finishBlock_withPorts p _ _ _

theorem State.decryptBlock_withPorts (s : State) (p : Ports) :
    (s.withPorts p).decryptBlock = s.decryptBlock.withPorts p := s.scheduleStep.finishBlock_withPorts p _ _ _

/-- A command commutes with a change of the ports. -/
theorem exec_withPorts {i : Instr} {s t : State} (h : exec i s = .next t) (p : Ports) :
    exec i (s.withPorts p) = .next (t.withPorts p) := by
  have key (c : Prop) [Decidable c] (a b : State) :
      (if c then a.withPorts p else b.withPorts p) = (if c then a else b).withPorts p :=
    Eq.symm (apply_ite (State.withPorts · p) c a b)
  cases i <;> cases h <;> refine congrArg Host.Outcome.next ?_ <;> simp only [← key]
  · rfl
  · rfl
  · rfl
  · simp only [State.encryptBlock_withPorts]; rfl
  · rfl
  · simp only [State.decryptBlock_withPorts]; rfl
  · rfl

/-- A command leaves the ports alone. -/
theorem exec_ports {i : Instr} {s t : State} (h : exec i s = .next t) : t.ports = s.ports := by
  cases exec_cases h <;> simp [State.ports, State.encryptBlock, State.decryptBlock]

end Sys2Proof.Machine
end

