-- ==== Sys2Proof/Laws/Sessions.lean ====
section
/-! SUPPORT. What the host's operand statements and one issued command do to the state (spec/30_encoding.md rule R97,
spec/44_commands.md rules R213, R214). -/

namespace Sys2Proof.Machine

/-- A fold of writes of one operand array, element by element. -/
theorem foldl_set_eq {n : Nat} (l : List (Fin n)) (v : Vector Byte n) (k : Vector Byte n) :
    l.foldl (fun w i => w.set i k[i]) v = Vector.ofFn fun i => if i ∈ l then k[i] else v[i] := by
  induction l generalizing v with
  | nil => ext i h; simp
  | cons j l ih =>
    rw [List.foldl_cons, ih]
    ext i h
    simp only [Vector.getElem_ofFn, List.mem_cons, Fin.getElem_fin, Vector.getElem_set, Fin.ext_iff]
    by_cases hm : (⟨i, h⟩ : Fin n) ∈ l
    · simp only [hm, or_true, if_true]
    · by_cases hj : j.val = i
      · subst hj; simp
      · have hj' : ¬ i = j.val := fun e => hj e.symm
        simp only [hm, hj, hj', or_false, if_false]

/-- A whole array written element by element is that array. -/
theorem foldl_set_all {n : Nat} (v k : Vector Byte n) : (List.finRange n).foldl (fun w i => w.set i k[i]) v = k := by
  rw [foldl_set_eq]; ext i h; simp

/-- `putblk` stores the block in BLK_IN and nothing else (R97). -/
theorem State.putBlk_eq (s : State) (b : Block) : s.putBlk b = { s with blkIn := b } := by
  have h : ∀ (l : List (Fin 16)) (s : State), l.foldl (fun s i => s.regWrite (Reg.address (.blkIn i)) b[i]) s =
      { s with blkIn := l.foldl (fun (w : Block) (i : Fin 16) => w.set i b[i]) s.blkIn } := by
    intro l
    induction l with
    | nil => intro s; rfl
    | cons i l ih => intro s; rw [List.foldl_cons, ih, State.regWrite, regAt_blkIn]; rfl
  rw [State.putBlk, h, foldl_set_all]

/-- `putkey` stores the key in KEY_IN and nothing else (R97). -/
theorem State.putKey_eq (s : State) (k : Block) : s.putKey k = { s with keyIn := k } := by
  have h : ∀ (l : List (Fin 16)) (s : State), l.foldl (fun s i => s.regWrite (Reg.address (.keyIn i)) k[i]) s =
      { s with keyIn := l.foldl (fun (w : Block) (i : Fin 16) => w.set i k[i]) s.keyIn } := by
    intro l
    induction l with
    | nil => intro s; rfl
    | cons i l ih => intro s; rw [List.foldl_cons, ih, State.regWrite, regAt_keyIn]; rfl
  rw [State.putKey, h, foldl_set_all]

/-- `setlen` stores the number in LEN, little-endian, and nothing else (R63, R97). -/
theorem State.putLen_eq (s : State) (n : Nat) : s.putLen n = { s with len := BitVec.ofNat 32 n } := by
  have h : ∀ (l : List (Fin 4)) (s : State), l.foldl (fun s i => s.regWrite (Reg.address (.len i)) (lenByte n i)) s =
      { s with len := l.foldl (fun w i => setCounterByte w i (lenByte n i)) s.len } := by
    intro l
    induction l with
    | nil => intro s; rfl
    | cons i l ih => intro s; rw [List.foldl_cons, ih, State.regWrite, regAt_len]; rfl
  have hb : ∀ i : Fin 4, counterByte (BitVec.ofNat 32 n) i = lenByte n i := by
    intro i
    apply BitVec.eq_of_getLsbD_eq
    intro k hk
    have hi := i.isLt
    have : 8 * i.val + k < 32 := by omega
    rw [counterByte_get, lenByte, BitVec.getLsbD_ofNat, BitVec.getLsbD_ofNat, Nat.testBit_shiftRight]
    simp [hk, this]
  rw [State.putLen, h]
  congr 1
  apply counter_ext
  intro i
  rw [hb]
  fin_cases i <;> simp [List.finRange_succ]

/-- `getblk` reads BLK_OUT (R97). -/
theorem State.getBlk_eq (s : State) : s.getBlk = s.blkOut := by
  ext i h
  simp [State.getBlk, State.regRead]

/-- A command issued on an idle block runs with the operand registers of that moment (R67, R200). -/
theorem State.issue_eq {s : State} (hb : s.busy = false) (i : Instr) :
    s.issue i = nextState? (exec i (s.latch (encode i))) := by
  have hd : decode (encode i) = .ok i := by cases i <;> rfl
  rw [State.issue, State.regWrite, regAt_cmd]
  simp only [State.writeCmd_idle hb]
  rw [engineStep_ok rfl (by simpa [State.snapshot] using hd)]

/-- A command issued on an idle block completes, and the block is idle again (R200, R243). -/
theorem State.issue_completes {s : State} (hb : s.busy = false) (i : Instr) : ∃ t, s.issue i = some t ∧ t.busy = false := by
  obtain ⟨t, ht, he⟩ := exec_effect i (s.latch (encode i))
  refine ⟨t, by rw [State.issue_eq hb, ht]; rfl, ?_⟩
  cases he <;> rfl

/-- Block commands issued one after the other all complete. -/
theorem State.passBlocks_completes (i : Instr) (bs : List Block) {s : State} (hb : s.busy = false) :
    ∃ t os, State.passBlocks i s bs = some (t, os) := by
  induction bs generalizing s with
  | nil => exact ⟨s, [], rfl⟩
  | cons b bs ih =>
    obtain ⟨t, ht, hb'⟩ := State.issue_completes (s := s.putBlk b) (by rw [State.putBlk_eq]; exact hb) i
    obtain ⟨u, os, hu⟩ := ih hb'
    exact ⟨u, t.getBlk :: os, by rw [State.passBlocks, ht]; simp only [hu]⟩

/-- A whole call on an idle block runs to its end, in error or not. -/
theorem State.call_completes (start block : Instr) (n : Nat) (bs : List Block) {s : State} (hb : s.busy = false) :
    ∃ t os, s.call start block n bs = some (t, os) := by
  obtain ⟨t, ht, hb'⟩ := State.issue_completes (s := s.putLen n) (by rw [State.putLen_eq]; exact hb) start
  obtain ⟨u, os, hu⟩ := State.passBlocks_completes block bs hb'
  exact ⟨u, os, by rw [State.call, ht]; exact hu⟩

end Sys2Proof.Machine
end

