-- ==== Sys2Proof/Laws/HostPrograms.lean ====
section
/-! SUPPORT. What the actions of a host program do to the state, under every schedule (spec/30_encoding.md rule R97). -/

namespace Sys2Proof.Machine

/-- A state whose host has read more bytes. -/
def State.hears (s : State) (got : List Byte) : State :=
  { s with host := { pending := s.host.pending, reads := got ++ s.host.reads } }

@[simp] theorem State.hears_nil (s : State) : s.hears [] = s := rfl
@[simp] theorem State.hears_hears (s : State) (g h : List Byte) : (s.hears g).hears h = s.hears (h ++ g) := by
  simp [State.hears, List.append_assoc]
@[simp] theorem State.hears_busy (s : State) (g : List Byte) : (s.hears g).busy = s.busy := rfl
@[simp] theorem State.hears_regRead (s : State) (g : List Byte) (a : Byte) : (s.hears g).regRead a = s.regRead a := rfl

/-- What the host has read changes no register write. -/
theorem State.hears_regWrite (s : State) (g : List Byte) (a v : Byte) : (s.hears g).regWrite a v = (s.regWrite a v).hears g := by
  unfold State.regWrite
  cases regAt a with
  | cmd => exact Eq.symm (apply_ite (State.hears · g) (s.busy = true) { s with ovr := true } (s.latch v))
  | status => exact Eq.symm (apply_ite (State.hears · g) (v.getLsbD 6 = true) { s with ovr := false } s)
  | _ => rfl

/-! ### Single events -/

@[simp] theorem State.offer_read (s : State) (a : Byte) : s.offer (.read a) = some (s.hears [s.regRead a]) := rfl
@[simp] theorem State.offer_write (s : State) (a v : Byte) : s.offer (.write a v) = some (s.regWrite a v) := rfl
theorem State.offer_engine (s : State) : s.offer .engine = nextState? (engineStep s) := rfl

/-- A turn of the engine changes nothing on an idle block (R255). -/
theorem State.offer_engine_idle {s : State} (hb : s.busy = false) : s.offer .engine = some s := by
  rw [State.offer_engine, engineStep_idle hb]; rfl

/-- A turn of the engine with a command latched is its engine step (R200). -/
theorem State.offer_engine_busy {s t : State} (h : engineStep s = .next t) : s.offer .engine = some t := by
  rw [State.offer_engine, h]; rfl

/-- On an idle block the schedule does not matter to an access. -/
theorem State.access_idle {s : State} (hb : s.busy = false) (turn : Bool) (t : Transaction) :
    s.access turn t = s.offer t.event := by
  cases turn with
  | false => rfl
  | true => rw [State.access, if_pos rfl, State.offer_engine_idle hb]

/-- An access after the engine step of the latched command. -/
theorem State.access_turn {s u : State} (h : engineStep s = .next u) (t : Transaction) : s.access true t = u.offer t.event := by
  rw [State.access, if_pos rfl, State.offer_engine_busy h]

@[simp] theorem State.status_busy (s : State) : (s.regRead (Reg.address .status)).getLsbD 0 = s.busy := by
  show s.status.getLsbD 0 = s.busy
  rw [State.status, BitVec.getLsbD_append, if_pos (by decide), BitVec.getLsbD_ofBool, decide_eq_true rfl, Bool.true_and]

/-! ### The loop of `wait` -/

/-- On an idle block one poll ends the loop. -/
theorem State.pollUntilIdle_idle {s : State} (hb : s.busy = false) (q : List Bool) :
    s.pollUntilIdle q = some (s.hears [s.regRead (Reg.address .status)], q.tail) := by
  have h : (s.hears [s.regRead (Reg.address .status)]).lastRead.getLsbD 0 = false := s.status_busy.trans hb
  cases q with
  | nil =>
    rw [State.pollUntilIdle, State.access_idle hb, Transaction.event, State.offer_read]
    simp only [h]; rfl
  | cons turn q =>
    rw [State.pollUntilIdle, State.access_idle hb, Transaction.event, State.offer_read]
    simp only [h]; rfl

/-- An engine step with a command latched completes it and leaves the host's side alone (R200). -/
theorem engineStep_completes {s : State} (hb : s.busy = true) :
    ∃ t, engineStep s = .next t ∧ t.busy = false ∧ t.host = s.host ∧ ∀ g, engineStep (s.hears g) = .next (t.hears g) := by
  rcases engineStep_cases s with ⟨h, -⟩ | ⟨i, -, hd, h⟩ | ⟨e, -, hd, h⟩
  · rw [hb] at h; cases h
  · obtain ⟨t, ht, he⟩ := exec_effect i s
    have hp : t.ports = s.ports := exec_ports ht
    have hh : t.host = s.host := congrArg Ports.host hp
    refine ⟨t, h.trans ht, ?_, hh, fun g => ?_⟩
    · cases he <;> rfl
    · have hw := exec_withPorts ht { s.ports with host := (s.hears g).host }
      rw [engineStep_ok (s := s.hears g) (i := i) hb hd]
      refine (show exec i (s.hears g) = _ from hw).trans (congrArg _ ?_)
      rw [← hp, show (s.hears g).host = (t.hears g).host by simp only [State.hears, hh]]; rfl
  · refine ⟨_, h, by rw [State.illegalCommand_eq]; rfl, by rw [State.illegalCommand_eq]; rfl, fun g => ?_⟩
    rw [engineStep_illegal (s := s.hears g) hb hd, State.illegalCommand_eq, State.illegalCommand_eq]; rfl

/-- What the engine step of a latched command leaves (R200). -/
theorem engineStep_leaves {s t : State} (hb : s.busy = true) (h : engineStep s = .next t) :
    t.busy = false ∧ t.host = s.host ∧ ∀ g, engineStep (s.hears g) = .next (t.hears g) := by
  obtain ⟨u, hu, h'⟩ := engineStep_completes hb
  have e : t = u := Host.Outcome.next.inj (h.symm.trans hu)
  rw [e]; exact h'

/-- With a command latched the loop ends after that command's engine step, and every poll before the last read the same
byte. -/
theorem State.pollUntilIdle_busy (q : List Bool) {s t : State} (hb : s.busy = true) (ht : engineStep s = .next t) :
    ∃ n ≤ q.length, ∃ q', s.pollUntilIdle q = some (t.hears (t.regRead (Reg.address .status) ::
      List.replicate n (s.regRead (Reg.address .status))), q') := by
  induction q generalizing s t with
  | nil =>
    obtain ⟨htb, -, -⟩ := engineStep_leaves hb ht
    refine ⟨0, le_rfl, [], ?_⟩
    have h : (t.hears [t.regRead (Reg.address .status)]).lastRead.getLsbD 0 = false := t.status_busy.trans htb
    rw [State.pollUntilIdle, State.access_turn ht, Transaction.event, State.offer_read]
    simp only [h]; rfl
  | cons turn q ih =>
    obtain ⟨htb, -, hg⟩ := engineStep_leaves hb ht
    cases turn with
    | true =>
      refine ⟨0, Nat.zero_le _, q, ?_⟩
      have h : (t.hears [t.regRead (Reg.address .status)]).lastRead.getLsbD 0 = false := t.status_busy.trans htb
      rw [State.pollUntilIdle, State.access_turn ht, Transaction.event, State.offer_read]
      simp only [h]; rfl
    | false =>
      have h : (s.hears [s.regRead (Reg.address .status)]).lastRead.getLsbD 0 = true := s.status_busy.trans hb
      obtain ⟨n, hn, q', hq⟩ := ih (s := s.hears [s.regRead (Reg.address .status)]) hb (hg _)
      refine ⟨n + 1, Nat.succ_le_succ hn, q', ?_⟩
      rw [State.pollUntilIdle, show s.access false (.rd (Reg.address .status)) =
        some (s.hears [s.regRead (Reg.address .status)]) from rfl]
      simp only [h, if_true]
      rw [hq, State.hears_hears, State.hears_regRead, State.hears_regRead, List.replicate_succ']; rfl

/-- Where the schedule gives the engine no turn for `polls` accesses and is used up then, just so many polls read BUSY = 1. -/
theorem State.pollUntilIdle_replicate (polls : Nat) {s t : State} (hb : s.busy = true) (ht : engineStep s = .next t) :
    s.pollUntilIdle (List.replicate polls false) = some (t.hears (t.regRead (Reg.address .status) ::
      List.replicate polls (s.regRead (Reg.address .status))), []) := by
  induction polls generalizing s t with
  | zero =>
    obtain ⟨htb, -, -⟩ := engineStep_leaves hb ht
    have h : (t.hears [t.regRead (Reg.address .status)]).lastRead.getLsbD 0 = false := t.status_busy.trans htb
    rw [List.replicate_zero, State.pollUntilIdle, State.access_turn ht, Transaction.event, State.offer_read]
    simp only [h]; rfl
  | succ n ih =>
    obtain ⟨-, -, hg⟩ := engineStep_leaves hb ht
    have h : (s.hears [s.regRead (Reg.address .status)]).lastRead.getLsbD 0 = true := s.status_busy.trans hb
    rw [List.replicate_succ, State.pollUntilIdle, show s.access false (.rd (Reg.address .status)) =
      some (s.hears [s.regRead (Reg.address .status)]) from rfl]
    simp only [h, if_true]
    rw [ih (s := s.hears [s.regRead (Reg.address .status)]) hb (hg _), State.hears_hears, State.hears_regRead,
      State.hears_regRead, List.replicate_succ']; rfl

/-! ### Lists of actions -/

/-- The actions lead from one state to the other under every schedule, whatever the host has read, with more bytes read. -/
def Performs (l : List HostAction) (s t : State) : Prop :=
  ∀ (q : List Bool) (g : List Byte), ∃ q' g', ∀ rest, runActions (l ++ rest) q (s.hears g) = runActions rest q' (t.hears (g' ++ g))

theorem Performs.nil (s : State) : Performs [] s s := fun q _ => ⟨q, [], fun _ => rfl⟩

theorem Performs.append {l m : List HostAction} {s t u : State} (h : Performs l s t) (k : Performs m t u) : Performs (l ++ m) s u := by
  intro q g
  obtain ⟨q', g', h'⟩ := h q g
  obtain ⟨q'', g'', k'⟩ := k q' (g' ++ g)
  exact ⟨q'', g'' ++ g', fun rest => by rw [List.append_assoc, h', k', List.append_assoc]⟩

/-- A whole run. -/
theorem Performs.run {l : List HostAction} {s t : State} (h : Performs l s t) (q : List Bool) :
    ∃ g, runActions l q s = .finished (t.hears g) := by
  obtain ⟨q', g', h'⟩ := h q []
  refine ⟨g', ?_⟩
  have := h' []
  rwa [List.append_nil, List.append_nil] at this

/-- A write on an idle block. -/
theorem Performs.wr {s : State} (hb : s.busy = false) (a v : Byte) : Performs [.bus (.wr a v)] s (s.regWrite a v) := by
  intro q g
  refine ⟨q.tail, [], fun rest => ?_⟩
  rw [List.singleton_append, runActions, State.access_idle (by exact hb), Transaction.event, State.offer_write,
    State.hears_regWrite]; rfl

/-- A read on an idle block. -/
theorem Performs.rd {s : State} (hb : s.busy = false) (a : Byte) : Performs [.bus (.rd a)] s s := by
  intro q g
  refine ⟨q.tail, [s.regRead a], fun rest => ?_⟩
  rw [List.singleton_append, runActions, State.access_idle (by exact hb), Transaction.event, State.offer_read,
    State.hears_hears]; rfl

/-- A command issued on an idle block is the engine step of that command latched (R67, R200). -/
theorem State.issue_latch {s t : State} (hb : s.busy = false) {i : Instr} (h : s.issue i = some t) :
    engineStep (s.latch (encode i)) = .next t := by
  have hd : decode (encode i) = .ok i := by cases i <;> rfl
  rw [State.issue_eq hb] at h
  obtain ⟨u, hu, -⟩ := exec_effect i (s.latch (encode i))
  rw [hu] at h
  have e : u = t := Option.some.inj h
  rw [← e]
  exact (engineStep_ok (s := s.latch (encode i)) rfl hd).trans hu

/-- A CMD write on an idle block (R67). -/
theorem State.write_cmd {s : State} (hb : s.busy = false) (g : List Byte) (v : Byte) :
    (s.hears g).regWrite (Reg.address .cmd) v = (s.latch v).hears g := by
  rw [State.hears_regWrite, State.regWrite, regAt_cmd]
  simp only [State.writeCmd_idle hb]

/-- A command issued on an idle block, and the wait for it. -/
theorem Performs.run_command {s t : State} (hb : s.busy = false) {i : Instr} (h : s.issue i = some t) :
    Performs (HostStmt.expand (.run i)) s t := by
  intro q g
  have hl := State.issue_latch hb h
  have hlb : (s.latch (encode i)).busy = true := rfl
  generalize hs : s.latch (encode i) = w at hl hlb
  obtain ⟨n, -, q', hq⟩ := State.pollUntilIdle_busy q.tail (s := w.hears g) hlb ((engineStep_leaves hlb hl).2.2 g)
  refine ⟨q', t.regRead (Reg.address .status) :: List.replicate n (w.regRead (Reg.address .status)), fun rest => ?_⟩
  rw [HostStmt.expand, wrAction, List.cons_append, runActions, State.access_idle (by exact hb), Transaction.event,
    State.offer_write, State.write_cmd hb, hs]
  simp only [List.singleton_append]
  rw [runActions, hq]
  simp only [State.hears_hears, State.hears_regRead]

/-- Writes on an idle block, none of them to CMD. -/
theorem Performs.writes {α : Type} (f : α → Reg) (w : α → Byte) (hf : ∀ x s, (State.regWrite s (f x).address (w x)).busy = s.busy)
    (l : List α) {s : State} (hb : s.busy = false) :
    Performs (l.map fun x => wrAction (f x) (w x)) s (l.foldl (fun s x => s.regWrite (f x).address (w x)) s) := by
  induction l generalizing s with
  | nil => exact Performs.nil s
  | cons x l ih => exact (Performs.wr hb _ _).append (ih ((hf x s).trans hb))

theorem Performs.setlen {s : State} (hb : s.busy = false) (n : Nat) : Performs (HostStmt.expand (.setlen n)) s (s.putLen n) :=
  Performs.writes (fun i => .len i) _ (fun i s => by rw [State.regWrite, regAt_len]) _ hb

theorem Performs.putkey {s : State} (hb : s.busy = false) (k : Block) : Performs (HostStmt.expand (.putkey k)) s (s.putKey k) :=
  Performs.writes (fun i => .keyIn i) (fun i => k[i]) (fun i s => by rw [State.regWrite, regAt_keyIn]) _ hb

theorem Performs.putblk {s : State} (hb : s.busy = false) (b : Block) : Performs (HostStmt.expand (.putblk b)) s (s.putBlk b) :=
  Performs.writes (fun i => .blkIn i) (fun i => b[i]) (fun i s => by rw [State.regWrite, regAt_blkIn]) _ hb

/-- Reads on an idle block. -/
theorem Performs.reads (l : List Reg) {s : State} (hb : s.busy = false) : Performs (l.map rdAction) s s := by
  induction l with
  | nil => exact Performs.nil s
  | cons r l ih => exact (Performs.rd hb _).append ih

theorem Performs.getblk {s : State} (hb : s.busy = false) : Performs (HostStmt.expand .getblk) s s := by
  have h := Performs.reads ((List.finRange 16).map Reg.blkOut) hb
  rwa [List.map_map] at h

end Sys2Proof.Machine
end

