-- ==== Sys2Proof/Laws/PerInstr.lean ====
section
/-! SUPPORT. The family of statements made per command: each one encodes as the byte of the opcode map
(spec/30_encoding.md rules R90, R92). -/

namespace Sys2Proof.Laws.EncodesAsOpcode

/-- A command is one byte with RSV = 0000 and its opcode in OP, below 7, and the decoder reads the byte back. -/
def Statement (i : Instr) : Prop :=
  rsvField (encode i) = 0 ∧ opField (encode i) = opcode i ∧ (encode i).toNat < 7 ∧ decode (encode i) = .ok i ∧
    decodeTableWord 8 (encode i).toNat = some i

theorem nop : Statement .nop := ⟨rfl, rfl, by decide, rfl, rfl⟩
theorem loadKey : Statement .loadKey := ⟨rfl, rfl, by decide, rfl, rfl⟩
theorem encBegin : Statement .encBegin := ⟨rfl, rfl, by decide, rfl, rfl⟩
theorem encBlock : Statement .encBlock := ⟨rfl, rfl, by decide, rfl, rfl⟩
theorem decBegin : Statement .decBegin := ⟨rfl, rfl, by decide, rfl, rfl⟩
theorem decBlock : Statement .decBlock := ⟨rfl, rfl, by decide, rfl, rfl⟩
theorem endSession : Statement .endSession := ⟨rfl, rfl, by decide, rfl, rfl⟩

end Sys2Proof.Laws.EncodesAsOpcode
end

