-- ==== Sys2Proof/Laws/Runs.lean ====
section
/-! SUPPORT. Runs of the machine, one step at a time. -/

namespace Sys2Proof.Machine

@[simp] theorem RunsTo_zero (s t : State) : RunsTo 0 s t ↔ s = t :=
  ⟨fun h => Host.Outcome.next.inj h, fun h => congrArg Host.Outcome.next h⟩

/-- One more step at the front of a run of any machine. -/
theorem core_run_succ (M : Host.Core) (n : Nat) {s u : M.State} (h : M.step s = .next u) :
    M.run (n + 1) s = M.run n u := by
  conv => lhs; unfold Host.Core.run
  rw [h]

/-- A run whose first step is known is a run one step shorter from that step's state. -/
theorem RunsTo_succ {n : Nat} {s u t : State} (h : step s = .next u) : RunsTo (n + 1) s t ↔ RunsTo n u t :=
  iff_of_eq (congrArg (· = Host.Outcome.next t) (core_run_succ Sys2Proof.core n h))

end Sys2Proof.Machine
end

