-- ==== Sys2Proof/Tests/TC1.lean ====
section
/-! SUPPORT. The test configuration TC1 of spec/95_test_vectors.md section 2. It is a stand-in of the spec's own, not the
real tables. -/

namespace Sys2Proof.Tests

/-- FWD of TC1. -/
def tc1Fwd : List Nat :=
  [
    [0x2C, 0xDE, 0x06, 0x34, 0xF1, 0x10, 0x84, 0x4A, 0x66, 0x1A, 0x17, 0x18, 0xCE, 0xF3, 0x80, 0x52],
    [0x86, 0x44, 0x54, 0x7C, 0x4B, 0x89, 0xA2, 0xD6, 0x9C, 0x4E, 0x88, 0x28, 0xEA, 0xE3, 0x46, 0x2F],
    [0x12, 0x3C, 0x1C, 0x67, 0x16, 0x2B, 0xE0, 0x15, 0x6D, 0xA4, 0x8A, 0xFE, 0x00, 0xEC, 0x37, 0x3F],
    [0x48, 0x32, 0x56, 0xA3, 0xB6, 0x8F, 0xC6, 0x3E, 0x53, 0x1B, 0xE2, 0xA6, 0xBE, 0x61, 0x4C, 0x47],
    [0x20, 0xC1, 0xEE, 0xC9, 0x5A, 0xC4, 0xE8, 0xE1, 0x26, 0xB4, 0xDC, 0xFB, 0x38, 0x73, 0x75, 0x5B],
    [0xC0, 0x07, 0x24, 0x94, 0xE5, 0x6B, 0x1F, 0x9A, 0x0E, 0x5C, 0x1E, 0x60, 0xF4, 0x78, 0x6E, 0xF8],
    [0xC8, 0xE4, 0x0B, 0xDD, 0xB0, 0x63, 0x6C, 0xF2, 0x0C, 0x91, 0x0F, 0x93, 0x02, 0xAD, 0xAC, 0x3D],
    [0x58, 0x57, 0xEF, 0x99, 0x6F, 0x96, 0xA5, 0xED, 0xD2, 0x41, 0x92, 0x59, 0x2E, 0xBA, 0xC2, 0xFF],
    [0x7E, 0xEB, 0x74, 0xCA, 0x70, 0x29, 0x79, 0xFC, 0x5E, 0x33, 0x04, 0xA8, 0x9E, 0xD8, 0x77, 0xDF],
    [0x3A, 0x83, 0x82, 0xC7, 0xA9, 0x87, 0x3B, 0xAF, 0x36, 0x69, 0xC5, 0x31, 0x68, 0x81, 0xAA, 0xD0],
    [0x21, 0x8B, 0x71, 0xD3, 0x6A, 0x27, 0x72, 0xB8, 0xA0, 0xD5, 0xB1, 0xB9, 0x42, 0x43, 0x40, 0x4D],
    [0x76, 0xD1, 0xBC, 0x2D, 0x4F, 0x09, 0xE6, 0xDB, 0xDA, 0x11, 0x23, 0xBF, 0x50, 0xCF, 0xC3, 0xFD],
    [0xF0, 0x7F, 0x22, 0xCB, 0xF9, 0xBD, 0x2A, 0x9D, 0x97, 0xD9, 0x01, 0xD4, 0x14, 0x7B, 0xCC, 0xF7],
    [0xBB, 0x8D, 0x9B, 0xB5, 0x39, 0xD7, 0x64, 0x05, 0x65, 0x35, 0xF5, 0x55, 0xA1, 0x19, 0x98, 0xE7],
    [0xAE, 0x5F, 0x62, 0x51, 0x8E, 0x13, 0x90, 0x7D, 0x30, 0x45, 0x08, 0x85, 0xE9, 0xA7, 0x0A, 0xCD],
    [0x95, 0x03, 0xF6, 0x25, 0x7A, 0xB3, 0xFA, 0x0D, 0x9F, 0xAB, 0x8C, 0x49, 0xB7, 0x1D, 0xB2, 0x5D]
  ].flatten

/-- INV of TC1. -/
def tc1Inv : List Nat :=
  [
    [0x2C, 0xCA, 0x6C, 0xF1, 0x8A, 0xD7, 0x02, 0x51, 0xEA, 0xB5, 0xEE, 0x62, 0x68, 0xF7, 0x58, 0x6A],
    [0x05, 0xB9, 0x20, 0xE5, 0xCC, 0x27, 0x24, 0x0A, 0x0B, 0xDD, 0x09, 0x39, 0x22, 0xFD, 0x5A, 0x56],
    [0x40, 0xA0, 0xC2, 0xBA, 0x52, 0xF3, 0x48, 0xA5, 0x1B, 0x85, 0xC6, 0x25, 0x00, 0xB3, 0x7C, 0x1F],
    [0xE8, 0x9B, 0x31, 0x89, 0x03, 0xD9, 0x98, 0x2E, 0x4C, 0xD4, 0x90, 0x96, 0x21, 0x6F, 0x37, 0x2F],
    [0xAE, 0x79, 0xAC, 0xAD, 0x11, 0xE9, 0x1E, 0x3F, 0x30, 0xFB, 0x07, 0x14, 0x3E, 0xAF, 0x19, 0xB4],
    [0xBC, 0xE3, 0x0F, 0x38, 0x12, 0xDB, 0x32, 0x71, 0x70, 0x7B, 0x44, 0x4F, 0x59, 0xFF, 0x88, 0xE1],
    [0x5B, 0x3D, 0xE2, 0x65, 0xD6, 0xD8, 0x08, 0x23, 0x9C, 0x99, 0xA4, 0x55, 0x66, 0x28, 0x5E, 0x74],
    [0x84, 0xA2, 0xA6, 0x4D, 0x82, 0x4E, 0xB0, 0x8E, 0x5D, 0x86, 0xF4, 0xCD, 0x13, 0xE7, 0x80, 0xC1],
    [0x0E, 0x9D, 0x92, 0x91, 0x06, 0xEB, 0x10, 0x95, 0x1A, 0x15, 0x2A, 0xA1, 0xFA, 0xD1, 0xE4, 0x35],
    [0xE6, 0x69, 0x7A, 0x6B, 0x53, 0xF0, 0x75, 0xC8, 0xDE, 0x73, 0x57, 0xD2, 0x18, 0xC7, 0x8C, 0xF8],
    [0xA8, 0xDC, 0x16, 0x33, 0x29, 0x76, 0x3B, 0xED, 0x8B, 0x94, 0x9E, 0xF9, 0x6E, 0x6D, 0xE0, 0x97],
    [0x64, 0xAA, 0xFE, 0xF5, 0x49, 0xD3, 0x34, 0xFC, 0xA7, 0xAB, 0x7D, 0xD0, 0xB2, 0xC5, 0x3C, 0xBB],
    [0x50, 0x41, 0x7E, 0xBE, 0x45, 0x9A, 0x36, 0x93, 0x60, 0x43, 0x83, 0xC3, 0xCE, 0xEF, 0x0C, 0xBD],
    [0x9F, 0xB1, 0x78, 0xA3, 0xCB, 0xA9, 0x17, 0xD5, 0x8D, 0xC9, 0xB8, 0xB7, 0x4A, 0x63, 0x01, 0x8F],
    [0x26, 0x47, 0x3A, 0x1D, 0x61, 0x54, 0xB6, 0xDF, 0x46, 0xEC, 0x1C, 0x81, 0x2D, 0x77, 0x42, 0x72],
    [0xC0, 0x04, 0x67, 0x0D, 0x5C, 0xDA, 0xF2, 0xCF, 0x5F, 0xC4, 0xF6, 0x4B, 0x87, 0xBF, 0x2B, 0x7F]
  ].flatten

/-- TC1 as plain numbers: REFL[x] = x xor 0x5A, EXP[i] = (5i + 3) mod 64,
SBOX[k][r][c] = (0x3C + 29 (k mod 6) + 7c + 128r) mod 256, NOTCH = 0x10. -/
def tc1Raw : RawTables where
  fwd := tc1Fwd
  inv := tc1Inv
  notch := 0x10
  refl := (List.range 256).map fun x => x ^^^ 0x5A
  exp := (List.range 128).map fun i => (5 * i + 3) % 64
  sbox := (List.range 8).map fun k => (List.range 2).map fun r => (List.range 16).map fun c =>
    (0x3C + 29 * (k % 6) + 7 * c + 128 * r) % 256
  shifts := [1, 1, 2, 2, 2, 2, 2, 2, 1, 2, 2, 2, 2, 2, 2, 1]

/-- A list of numbers as a byte table. -/
def tableOf (l : List Nat) (h : l.length = 256) : ByteTable := ⟨(l.map (BitVec.ofNat 8)).toArray, by simpa using h⟩

theorem tc1_fwd_length : tc1Fwd.length = 256 := by decide +kernel
theorem tc1_inv_length : tc1Inv.length = 256 := by decide +kernel

/-- The tables of TC1. -/
def tc1Tables : Tables where
  rotorI := { fwd := tableOf tc1Fwd tc1_fwd_length, inv := tableOf tc1Inv tc1_inv_length, notch := 0x10 }
  refl := tableOf ((List.range 256).map fun x => x ^^^ 0x5A) (by simp)
  exp := ⟨((List.range 128).map fun i => Fin.ofNat 64 (5 * i + 3)).toArray, by simp⟩
  sbox := Vector.ofFn fun k => Vector.ofFn fun r => Vector.ofFn fun c =>
    BitVec.ofNat 8 (0x3C + 29 * (k.val % 6) + 7 * c.val + 128 * r.val)
  shifts := ⟨#[.one, .one, .two, .two, .two, .two, .two, .two, .one, .two, .two, .two, .two, .two, .two, .one], rfl⟩

/-- An entry of a byte table made from a list. -/
theorem tableOf_get (l : List Nat) (h : l.length = 256) (i : Nat) (hi : i < 256) :
    (tableOf l h)[i] = BitVec.ofNat 8 (l.getD i 0) := by
  rw [List.getD_eq_getElem l 0 (by omega)]
  simp [tableOf]

/-- INV of TC1 undoes FWD of TC1, as lists. -/
theorem tc1_inv_fwd : tc1Fwd.map (fun i => tc1Inv.getD i 0) = List.range 256 := by decide +kernel

theorem tc1_fwd_bytes : ∀ x ∈ tc1Fwd, x < 256 := by decide +kernel

theorem tc1_fwd_nodup : tc1Fwd.Nodup := List.Nodup.of_map _ (tc1_inv_fwd ▸ List.nodup_range)

theorem tc1_fwd_permutation : tc1Tables.FwdIsPermutation :=
  List.Nodup.map_on
    (fun x hx y hy h => by
      have := congrArg BitVec.toNat h
      simp only [BitVec.toNat_ofNat, Nat.mod_eq_of_lt (tc1_fwd_bytes x hx), Nat.mod_eq_of_lt (tc1_fwd_bytes y hy)] at this
      exact this)
    tc1_fwd_nodup

theorem tc1_refl_get (x : Byte) : tc1Tables.refl[x.toNat]'x.isLt = x ^^^ 0x5A := by
  have h := x.isLt
  simp only [tc1Tables]
  rw [tableOf_get _ _ _ h, List.getD_eq_getElem _ _ (by simpa using h)]
  simp only [List.getElem_map, List.getElem_range]
  apply BitVec.eq_of_toNat_eq
  rw [BitVec.toNat_ofNat, BitVec.toNat_xor]
  exact Nat.mod_eq_of_lt (Nat.xor_lt_two_pow (n := 8) h (by decide))

theorem tc1_refl_involution : tc1Tables.ReflIsInvolution := by
  intro x _
  rw [tc1_refl_get, tc1_refl_get, BitVec.xor_assoc, BitVec.xor_self, BitVec.xor_zero]

/-- TC1 with the given switches. -/
def tc1 (sched : SchedRefresh) (pos : PosSrc) : Config where
  tables := tc1Tables
  schedRefresh := sched
  posSrc := pos
  fwd_permutation := tc1_fwd_permutation
  refl_involution := tc1_refl_involution

end Sys2Proof.Tests
end

