-- ==== Sys2Proof/Tests/Commands.lean ====
section
/-! SUPPORT. Tests of single commands and host accesses: the rows of V-CMD in spec/95_test_vectors.md section 3.5, and the reset
vectors of section 3.6. -/

namespace Sys2Proof.Tests

open Sys2Proof.Machine

/-- The block after reset under TC1, with its self-check passed: no key, no session. -/
def idle : State := { State.afterReset (tc1 .chain .left) { pending := [], reads := [] } with tfault := false }

/-- The block with a key loaded. -/
def keyed : State := { idle with keyv := true }

/-- An encrypt session with four bytes left and a chaining value. -/
def encrypting : State := { keyed with mode := .enc, remain := 4, prev := Vector.replicate 16 0x55 }

/-- A decrypt session with 32 bytes left. -/
def decrypting : State := { keyed with mode := .dec, remain := 32 }

/-- A part of a state that the rows of V-CMD speak of. -/
structure Seen where
  err : Byte
  busy : Bool
  mode : Mode
  remain : Word32
  keyv : Bool
  built : Bool
  deriving DecidableEq, Repr

/-- That part, after one command byte has run. -/
def outcome (s : State) (v : Byte) : Option Seen :=
  (nextState? (engineStep (s.latch v))).map fun t => ⟨t.err, t.busy, t.mode, t.remain, t.keyv, t.built⟩

/-- TC1 passes the self-check (95_test_vectors.md section 2). -/
theorem tc1_selfCheck (sched : SchedRefresh) (pos : PosSrc) : selfCheck (tc1 sched pos) = true := by
  rw [selfCheck, List.all_eq_true]
  intro x _
  have hx := x.isLt
  have h := congrArg (fun l => l.getD x.toNat 0) tc1_inv_fwd
  simp only [List.getD_eq_getElem _ _ (show x.toNat < (List.range 256).length by simpa using hx), List.getElem_range,
    List.getD_eq_getElem _ _ (show x.toNat < (tc1Fwd.map fun i => tc1Inv.getD i 0).length by
      rw [tc1_inv_fwd]; simpa using hx), List.getElem_map] at h
  have hl : x.toNat < tc1Fwd.length := tc1_fwd_length.symm ▸ hx
  have hb : tc1Fwd[x.toNat] < 256 := tc1_fwd_bytes _ (List.getElem_mem hl)
  have hf : lookup tc1Tables.rotorI.fwd x = BitVec.ofNat 8 tc1Fwd[x.toNat] :=
    (tableOf_get tc1Fwd tc1_fwd_length _ hx).trans (by rw [List.getD_eq_getElem _ _ hl])
  show (lookup tc1Tables.rotorI.inv (lookup tc1Tables.rotorI.fwd x) == x) = true
  have hi : lookup tc1Tables.rotorI.inv (BitVec.ofNat 8 tc1Fwd[x.toNat]) = BitVec.ofNat 8 (tc1Inv.getD tc1Fwd[x.toNat] 0) :=
    (tableOf_get tc1Inv tc1_inv_length _ (BitVec.isLt _)).trans (by rw [BitVec.toNat_ofNat, Nat.mod_eq_of_lt hb])
  rw [hf, hi, h]
  simp

/-- V-RST-1: TC1 after reset. -/
theorem test_reset : (State.afterReset (tc1 .chain .left) idle.host).tfault = false ∧ idle.regRead 0x01 = 0x00 ∧
    idle.regRead 0x02 = 0x00 := ⟨by simp [State.afterReset, tc1_selfCheck], by decide +kernel, by decide +kernel⟩

/-- V-RST-2: a table fault shows as STATUS 0x20, and after a command as 0xA0 with ERR 0x06. -/
theorem test_table_fault :
    ({ idle with tfault := true } : State).regRead 0x01 = 0x20 ∧
      (nextState? (engineStep (({ idle with tfault := true } : State).latch 0x3F))).map (fun t => (t.err, t.regRead 0x01)) =
        some (0x06, 0xA0) := by decide +kernel

/-- V-CMD 1 and 18. -/
theorem test_nop : outcome { keyed with err := 5 } 0x00 = some ⟨0x00, false, .idle, 0, true, false⟩ ∧
    outcome { idle with tfault := true } 0x00 = some ⟨0x06, false, .idle, 0, false, false⟩ := by decide +kernel

/-- V-CMD 2: the key is the operand's. -/
theorem test_loadKey_loads :
    (nextState? (engineStep (({ idle with keylen := 16, keyIn := Vector.replicate 16 0x4B } : State).latch 0x01))).map
      (fun t => (t.key[15], t.keyv, t.built, t.err)) = some (0x4B, true, false, 0x00) := by decide +kernel

/-- V-CMD 3, 4 and 14: key lengths 15, 0, 17 and 255, and an open session. -/
theorem test_loadKey_refused :
    outcome { idle with keylen := 15 } 0x01 = some ⟨0x01, false, .idle, 0, false, false⟩ ∧
    outcome { idle with keylen := 0 } 0x01 = some ⟨0x01, false, .idle, 0, false, false⟩ ∧
    outcome { idle with keylen := 17 } 0x01 = some ⟨0x01, false, .idle, 0, false, false⟩ ∧
    outcome { idle with keylen := 0xFF } 0x01 = some ⟨0x01, false, .idle, 0, false, false⟩ ∧
    outcome { encrypting with keylen := 16 } 0x01 = some ⟨0x04, false, .enc, 4, true, false⟩ := by decide +kernel

/-- V-CMD 5, 6 and 7. -/
theorem test_encBegin : outcome { idle with len := 16 } 0x02 = some ⟨0x03, false, .idle, 0, false, false⟩ ∧
    outcome { keyed with len := 0 } 0x02 = some ⟨0x00, false, .idle, 0, true, false⟩ ∧
    outcome { keyed with len := 20 } 0x02 = some ⟨0x00, false, .enc, 20, true, false⟩ := by decide +kernel

/-- V-CMD 8 to 11 and 19. -/
theorem test_decBegin : outcome { keyed with len := 20 } 0x04 = some ⟨0x02, false, .idle, 0, true, false⟩ ∧
    outcome { keyed with len := 0 } 0x04 = some ⟨0x00, false, .idle, 0, true, false⟩ ∧
    outcome { keyed with len := 0xFFFFFFF0 } 0x04 = some ⟨0x00, false, .dec, 0xFFFFFFF0, true, false⟩ ∧
    outcome { keyed with len := 0xFFFFFFFF } 0x04 = some ⟨0x02, false, .idle, 0, true, false⟩ ∧
    outcome { idle with len := 20 } 0x04 = some ⟨0x03, false, .idle, 0, false, false⟩ := by decide +kernel

/-- V-CMD 12, and the end of a session with its last bytes. -/
theorem test_encBlock : outcome idle 0x03 = some ⟨0x04, false, .idle, 0, false, false⟩ ∧
    outcome encrypting 0x03 = some ⟨0x00, false, .idle, 0, true, true⟩ := by decide +kernel

/-- V-CMD 13 and 14, and a session that goes on. -/
theorem test_decBlock : outcome idle 0x05 = some ⟨0x04, false, .idle, 0, false, false⟩ ∧
    outcome encrypting 0x05 = some ⟨0x04, false, .enc, 4, true, false⟩ ∧
    outcome decrypting 0x05 = some ⟨0x00, false, .dec, 16, true, true⟩ := by decide +kernel

/-- V-CMD 15 and 16. -/
theorem test_end : outcome encrypting 0x06 = some ⟨0x00, false, .idle, 0, true, false⟩ ∧
    outcome idle 0x06 = some ⟨0x00, false, .idle, 0, false, false⟩ := by decide +kernel

/-- V-CMD 17 and 20. -/
theorem test_illegal : outcome idle 0x07 = some ⟨0x05, false, .idle, 0, false, false⟩ ∧
    outcome idle 0x0F = some ⟨0x05, false, .idle, 0, false, false⟩ ∧
    outcome idle 0x10 = some ⟨0x05, false, .idle, 0, false, false⟩ ∧
    outcome idle 0x81 = some ⟨0x05, false, .idle, 0, false, false⟩ ∧
    outcome idle 0xFF = some ⟨0x05, false, .idle, 0, false, false⟩ ∧
    outcome encrypting 0x20 = some ⟨0x05, false, .enc, 4, true, false⟩ := by decide +kernel

/-- STATUS at two points of program P4: OVR, MODE ENC, BUILT, KEYV, BUSY; then OVR, BUILT, KEYV. -/
theorem test_status : ({ encrypting with ovr := true, built := true, busy := true } : State).regRead 0x01 = 0x4F ∧
    ({ keyed with ovr := true, built := true } : State).regRead 0x01 = 0x46 := by decide +kernel

/-- LEN is little-endian (20_memory.md R63), and a write of bit 6 clears OVR, a write without it does not (R66). -/
theorem test_writes :
    ((idle.regWrite 0x05 0x12).len, (idle.regWrite 0x07 0x80).len) = (0x1200, 0x80000000) ∧
    (({ idle with ovr := true } : State).regWrite 0x01 0x40).ovr = false ∧
    (({ idle with ovr := true } : State).regWrite 0x01 0xBF).ovr = true := by decide +kernel

/-- The record stream of a key byte written and STATUS read, as in the first records of program P1. -/
theorem test_records : recordStream [.rd 0x01, .wr 0x10 0x00] = [0x52, 0x01, 0x57, 0x10, 0x00] ∧
    parseRecords [0x52, 0x01, 0x57, 0x10, 0x00] = some [.rd 0x01, .wr 0x10 0x00] ∧ parseRecords [0x57, 0x10] = none := by
  decide +kernel

/-- The expansions of `setlen`, `cmd` and `run` (30_encoding.md R97), the addresses those of 20_memory.md R62. -/
theorem test_expansions :
    HostStmt.expand (.setlen 0x01020314) =
      [.bus (.wr 0x04 0x14), .bus (.wr 0x05 0x03), .bus (.wr 0x06 0x02), .bus (.wr 0x07 0x01)] ∧
    HostStmt.expand (.cmd .loadKey) = [.bus (.wr 0x00 0x01)] ∧
    HostStmt.expand (.run .endSession) = [.bus (.wr 0x00 0x06), .pollStatus] := by decide +kernel

/-- What the host has read at the end of a program, and whether it failed. -/
def heard : ProgramEnd → Option (Bool × List Byte)
  | .finished s => some (false, s.host.reads)
  | .failed s => some (true, s.host.reads)
  | .stopped => none

/-- `wait` reads on while BUSY = 1 and stops at the first read of 0; on an idle block that is the first (R97). -/
theorem test_wait : heard (runProgram [false, false, false] [.wait] idle) = some (false, [0x00]) ∧
    heard (runProgram [false, false, false, true] [.run .nop] idle) = some (false, [0x00, 0x01, 0x01]) := by decide +kernel

/-- A program fails at an `expect` of another byte, and nothing after it runs (R97). The errors are V-CMD 7 and 1. -/
theorem test_expect : heard (runProgram [] [.run .encBegin, .expect 0x02 0x03] idle) = some (false, [0x03, 0x80]) ∧
    heard (runProgram [] [.run .nop, .expect 0x02 0x03, .rd 0x01] idle) = some (true, [0x00, 0x00]) := by decide +kernel

/-- Only whole blocks are passed to a decrypt session (log 25). -/
theorem test_wholeBlocks : (wholeBlocks (List.replicate 20 0x41)).length = 1 ∧ (wholeBlocks (List.replicate 32 0x41)).length = 2 := by
  decide +kernel

end Sys2Proof.Tests
end

