-- ==== Sys2Proof/Tests/Slice0.lean ====
section
/-! SUPPORT. Tests of the decoder, of the checks on a configuration and of the cipher. The expected results are written out from
the encodings of spec/30_encoding.md rule R92 and copied from the vectors of spec/95_test_vectors.md. -/

namespace Sys2Proof.Tests

open Sys2Proof.Machine

/-! ### Decoding: RSV (4 bits) ++ OP (4 bits), bit by bit from R90 and R92 -/

theorem test_decode_nop : decode 0b00000000#8 = .ok .nop := rfl
theorem test_decode_loadKey : decode 0b00000001#8 = .ok .loadKey := rfl
theorem test_decode_encBegin : decode 0b00000010#8 = .ok .encBegin := rfl
theorem test_decode_encBlock : decode 0b00000011#8 = .ok .encBlock := rfl
theorem test_decode_decBegin : decode 0b00000100#8 = .ok .decBegin := rfl
theorem test_decode_decBlock : decode 0b00000101#8 = .ok .decBlock := rfl
theorem test_decode_endSession : decode 0b00000110#8 = .ok .endSession := rfl

/-- The edges of the illegal ranges (R93): 0x07, 0x0F, 0x10, 0x86, 0xFF. -/
theorem test_decode_illegal :
    decode 0x07 = .error .unassignedOpcode ∧ decode 0x0F = .error .unassignedOpcode ∧
      decode 0x10 = .error .reservedField ∧ decode 0x86 = .error .reservedField ∧ decode 0xFF = .error .reservedField :=
  ⟨rfl, rfl, rfl, rfl, rfl⟩

theorem test_table_words : decodeTableWord 8 0b00000100 = some .decBegin ∧ decodeTableWord 8 0b00001000 = none ∧
    decodeTableWord 16 0b00000001 = none := ⟨rfl, rfl, rfl⟩

/-! ### The checks on a configuration (R9), each refusing an ill-formed one by name -/

/-- A small well-formed configuration: identity tables, zero selections. -/
def smoke : RawTables where
  fwd := List.range 256
  inv := List.range 256
  notch := 0
  refl := List.range 256
  exp := List.replicate 128 0
  sbox := List.replicate 8 (List.replicate 2 (List.replicate 16 0))
  shifts := List.replicate 16 1

theorem toByteTable_eq (l : List Nat) (h : l.length = 256) (hm : l.mapM toByte? = some (l.map (BitVec.ofNat 8))) :
    toVectorOf? toByte? 256 l = some (tableOf l h) := by
  unfold toVectorOf? toVector?
  rw [hm]
  exact dif_pos (by simpa using h)

theorem smoke_shapes :
    (List.range 256).mapM toByte? = some ((List.range 256).map (BitVec.ofNat 8)) ∧
      (toVectorOf? toExpIndex? 128 smoke.exp).isSome ∧ (toVectorOf? toShift? 16 smoke.shifts).isSome ∧
      (toSbox? smoke.sbox).isSome := by decide +kernel

theorem range_table_get (h : (List.range 256).length = 256) (x : Byte) : (tableOf (List.range 256) h)[x.toNat]'x.isLt = x := by
  rw [tableOf_get _ _ _ x.isLt, List.getD_eq_getElem _ _ (by simp [x.isLt])]
  simp

/-- R8: FWD one entry short; a notch that is no byte. -/
theorem smoke_rotor_tables :
    ({ smoke with fwd := List.range 255 } : RawTables).load .chain .left = .error .rotorTablesNotBytes ∧
      ({ smoke with notch := 256 } : RawTables).load .chain .left = .error .rotorTablesNotBytes :=
  ⟨by decide +kernel, by decide +kernel⟩

/-- R9(a): FWD sends both 0 and 1 to 0. -/
theorem smoke_fwd : ({ smoke with fwd := 0 :: List.range 255 } : RawTables).load .chain .left = .error .fwdNotPermutation := by
  obtain ⟨h, h1, h2, h3⟩ := smoke_shapes
  obtain ⟨exp, h1⟩ := Option.isSome_iff_exists.mp h1
  obtain ⟨shifts, h2⟩ := Option.isSome_iff_exists.mp h2
  obtain ⟨sbox, h3⟩ := Option.isSome_iff_exists.mp h3
  have hr := toByteTable_eq (List.range 256) (by simp) h
  have hf : toVectorOf? toByte? 256 (0 :: List.range 255) = some (tableOf (0 :: List.range 255) (by simp)) :=
    toByteTable_eq _ (by simp) (by decide +kernel)
  have hn : toByte? smoke.notch = some 0 := rfl
  unfold RawTables.load
  simp only [show smoke.refl = List.range 256 by simp only [smoke], show smoke.inv = List.range 256 by simp only [smoke],
    hr, hf, hn, h1, h2, h3]
  refine (dif_pos ?_).trans (dif_neg ?_)
  · exact fun x _ => (range_table_get (by simp) _).trans (range_table_get (by simp) x)
  · exact fun hd => (List.nodup_cons.mp hd).1 (List.mem_cons_self ..)

/-- R9(b): REFL sends 0 to 1 and 1 to 2. -/
theorem smoke_refl :
    ({ smoke with refl := (List.range 256).map fun x => (x + 1) % 256 } : RawTables).load .chain .left =
      .error .reflNotInvolution := by decide +kernel

/-- R9(c): an expansion index of 64. -/
theorem smoke_exp : ({ smoke with exp := 64 :: List.replicate 127 0 } : RawTables).load .chain .left = .error .expOutOfRange := by
  decide +kernel

/-- R9(d): a shift of 3; a shift of 0. -/
theorem smoke_shifts :
    ({ smoke with shifts := 3 :: List.replicate 15 1 } : RawTables).load .chain .left = .error .shiftsOutOfRange ∧
      ({ smoke with shifts := 0 :: List.replicate 15 1 } : RawTables).load .chain .left = .error .shiftsOutOfRange :=
  ⟨by decide +kernel, by decide +kernel⟩

/-- R9(e): an S-box row that is too short. -/
theorem smoke_sbox : ({ smoke with sbox := List.replicate 8 (List.replicate 2 (List.replicate 15 0)) } : RawTables).load .chain .left =
    .error .sboxNotBytes := by decide +kernel

/-! ### The rotor machine under TC1 (95_test_vectors.md 3.1) -/

/-- A machine at the given positions and rings. -/
def machineAt (p0 p1 p2 r0 r1 r2 : Byte) : RotorMachine := rotorInit #v[p0, p1, p2] #v[r0, r1, r2]

/-- The positions after one advance. -/
def advanced (p0 p1 p2 : Byte) : List Byte := (advance (tc1 .chain .left) (machineAt p0 p1 p2 0 0 0)).pos.toList

/-- V-ADV: all ten rows. -/
theorem test_advance :
    advanced 0x00 0x00 0x00 = [0x00, 0x00, 0x01] ∧ advanced 0x00 0x00 0x10 = [0x00, 0x01, 0x11] ∧
    advanced 0x00 0x10 0x00 = [0x01, 0x11, 0x01] ∧ advanced 0x00 0x10 0x10 = [0x01, 0x12, 0x11] ∧
    advanced 0xFF 0x10 0xFF = [0x00, 0x11, 0x00] ∧ advanced 0x05 0x0F 0x10 = [0x05, 0x10, 0x11] ∧
    advanced 0x05 0x10 0x11 = [0x06, 0x11, 0x12] ∧ advanced 0x00 0xFF 0x10 = [0x00, 0x00, 0x11] ∧
    advanced 0x10 0x10 0x0F = [0x11, 0x11, 0x10] ∧ advanced 0xFF 0xFF 0xFF = [0xFF, 0xFF, 0x00] := by decide +kernel

/-- V-SHIFT. -/
theorem test_shift :
    shift (machineAt 1 0 0 4 0 0xFF) 0 = 0xFD ∧ shift (machineAt 1 0 0 4 0 0xFF) 1 = 0x00 ∧
    shift (machineAt 1 0 0 4 0 0xFF) 2 = 0x01 ∧ shift (machineAt 0xFF 0 0 0 0 0) 0 = 0xFF := by decide +kernel

/-- V-EB: the byte 0x41, and a second machine that maps the result back (R120). -/
theorem test_encryptByte :
    (encryptByte (tc1 .chain .left) (machineAt 1 2 3 4 5 6) 0x41).2 = 0x83 ∧
      (encryptByte (tc1 .chain .left) (machineAt 1 2 3 4 5 6) 0x83).2 = 0x41 := by decide +kernel

/-- V-RE, first row: sixteen zero bytes from positions and rings of zero; this is also SK[0] of V-KS0. -/
theorem test_rotorEncrypt :
    ((rotorEncrypt (tc1 .chain .left) (machineAt 0 0 0 0 0 0) zeroBlock).2).toList =
      [0xBC, 0xBB, 0xF5, 0x4F, 0xC2, 0xD1, 0x7D, 0x6C, 0xAC, 0x0A, 0x33, 0xFC, 0x4C, 0x50, 0x4E, 0x62] := by decide +kernel

/-- V-RE, second row: the final positions, past both notches. -/
theorem test_rotorEncrypt_double_step :
    (rotorEncrypt (tc1 .chain .left) (machineAt 0x0E 0x0F 0x0E 0 0 0) zeroBlock).1.pos.toList = [0x0F, 0x11, 0x1E] := by
  decide +kernel

/-! ### The key schedule under TC1 (95_test_vectors.md 3.2) -/

theorem test_shl8 : shl8 0x81 1 = 0x02 ∧ shl8 0xC3 2 = 0x0C ∧ shl8 0xFF 2 = 0xFC := by decide +kernel

/-- SK[1] of V-KS1, the current value that enters round 2. -/
def ks1sk1 : Block := #v[0x46, 0xD1, 0x68, 0x72, 0xBB, 0xC3, 0x23, 0xC1, 0x1A, 0xD4, 0xBC, 0x2C, 0x06, 0x19, 0xB7, 0x83]

/-- V-KS1, round 2 (shift 2): positions and rings under both readings of POS_SRC, and the first two bytes of SK[2]. -/
theorem test_schedule_round :
    (buildMachine (tc1 .chain .left) 2 ks1sk1).pos.toList = [0x18, 0x44, 0xA0] ∧
    (buildMachine (tc1 .chain .left) 2 ks1sk1).ring.toList = [0x68, 0x50, 0xF0] ∧
    (buildMachine (tc1 .chain .right) 2 ks1sk1).pos.toList = [0x68, 0x50, 0xF0] ∧
    (rotorEncrypt (tc1 .chain .left) (buildMachine (tc1 .chain .left) 2 ks1sk1) ks1sk1).2[0] = 0xF4 ∧
    (rotorEncrypt (tc1 .chain .left) (buildMachine (tc1 .chain .left) 2 ks1sk1) ks1sk1).2[1] = 0x1C := by decide +kernel

/-! ### The round function and a Feistel round under TC1 (95_test_vectors.md 3.3, 3.4) -/

/-- V-EXP-1 and V-EXP-2. -/
theorem test_expand :
    (expand (tc1 .chain .left) #v[0x00, 0x11, 0x22, 0x33, 0x44, 0x55, 0x66, 0x77]).toList =
      [0x12, 0xB8, 0x03, 0x89, 0x30, 0x9A, 0x21, 0xAB, 0x12, 0xB8, 0x03, 0x89, 0x30, 0x9A, 0x21, 0xAB] ∧
    (expand (tc1 .chain .left) #v[0x80, 0, 0, 0, 0, 0, 0, 0]).toList = [0, 0, 0, 0x40, 0, 0, 0, 0, 0, 0, 0, 0x40, 0, 0, 0, 0] := by
  decide +kernel

/-- V-SBOX on V-MIX. -/
theorem test_sboxLayer :
    (sboxLayer (tc1 .chain .left) #v[0x02, 0xA9, 0x11, 0x9A, 0x24, 0x8F, 0x37, 0xBC, 0x0A, 0xA1, 0x19, 0x92, 0x2C, 0x87, 0x3F,
      0xB4]).toList = [0xCA, 0xE0, 0x12, 0x44, 0x76, 0x8C, 0x10, 0x42] := by decide +kernel

/-- SK[0] of V-KS0. -/
def ks0sk0 : Block := #v[0xBC, 0xBB, 0xF5, 0x4F, 0xC2, 0xD1, 0x7D, 0x6C, 0xAC, 0x0A, 0x33, 0xFC, 0x4C, 0x50, 0x4E, 0x62]

/-- V-FE-TRACE, round 0: the left half is the old right one, the right half is F. -/
theorem test_feistel_round :
    (encRound (tc1 .chain .left) (Vector.replicate 16 ks0sk0) (leftHalf zeroBlock, rightHalf zeroBlock) 0).1.toList =
      [0, 0, 0, 0, 0, 0, 0, 0] ∧
    (encRound (tc1 .chain .left) (Vector.replicate 16 ks0sk0) (leftHalf zeroBlock, rightHalf zeroBlock) 0).2.toList =
      [0x90, 0xFC, 0x84, 0xEE, 0x84, 0x62, 0x90, 0xBB] := by decide +kernel

end Sys2Proof.Tests
end

