-- ==== Sys2Proof/Tests/Witnesses.lean ====
section
/-! SUPPORT. For every obligation with hypotheses, a concrete state and operands that meet them all; where the obligation has
several clauses, one witness for each, at the boundary values of its ranges. -/

namespace Sys2Proof.Tests

open Sys2Proof.Machine

/-- A state with the given events still to come. -/
def await (s : State) (l : List BusEvent) : State := s.withPending l

/-- A state with the command byte `v` latched. -/
def latched (s : State) (v : Byte) : State := s.latch v

/-- A state with a key and a chaining value that no reset state has. -/
def marked : State := { keyed with key := Vector.replicate 16 0x77, keyIn := Vector.replicate 16 0x4B, keylen := 16 }

/-- A machine at positions that no reset state has, with a plugboard. -/
def machineOf (plug : List (Byte × Byte)) : RotorMachine := { rotorInit #v[1, 2, 3] #v[4, 5, 6] with plug := plug }

/-- A subkey that is not zero. -/
def ks0 : Block := Vector.replicate 16 0xBC

/-- A property of each element of a list, from the list's own check. -/
theorem memDecide {α : Type} {p : α → Prop} [DecidablePred p] {l : List α} {a : α} (h : a ∈ l)
    (hl : (l.all fun x => decide (p x)) = true) : p a := by
  simpa using List.all_eq_true.mp hl a h

/-! ### Reset and configuration -/

theorem witness_ResetEventLeavesResetValues : (await (latched encrypting 0x03) [.reset, .read 0x01]).host.pending = [.reset, .read 0x01] :=
  rfl

theorem witness_SelfCheckDecidesTableFault :
    (await idle [.reset]).host.pending = [.reset] ∧
    ∃ t, step (await idle [.read 0x01]) = .next t ∧ ∀ rest, (await idle [.read 0x01]).host.pending ≠ .reset :: rest :=
  ⟨rfl, _, rfl, fun _ h => by cases h⟩

theorem witness_ConfigurationLoadsIffWellFormed : tc1Raw.WellFormed where
  fwd_bytes := ⟨tc1_fwd_length, tc1_fwd_bytes⟩
  inv_bytes := ⟨tc1_inv_length, by decide +kernel⟩
  refl_bytes := by decide +kernel
  notch_byte := by decide
  fwd_permutation := tc1_fwd_nodup
  refl_involution := by decide +kernel
  exp_range := by decide +kernel
  shifts_range := by decide +kernel
  sbox_bytes := by decide +kernel

theorem witness_ConfigurationNeverChanges : ∃ t, step (await idle [.reset]) = .next t := ⟨_, rfl⟩

/-! ### The register interface -/

/-- The edges of the reserved and of the read-only ranges. -/
theorem witness_ReservedAndReadOnlyAddresses :
    (∀ a ∈ [(0x00 : Byte), 0x0C, 0x0F, 0x40, 0xFF], (a.toNat = 0x00 ∨ 0x0C ≤ a.toNat ∧ a.toNat ≤ 0x0F ∨ 0x40 ≤ a.toNat) ∧
      (await idle [.read a]).host.pending = [.read a]) ∧
    (∀ a ∈ [(0x02 : Byte), 0x08, 0x0B, 0x0F, 0x30, 0x3F, 0xFF], (a.toNat = 0x02 ∨ 0x08 ≤ a.toNat ∧ a.toNat ≤ 0x0F ∨ 0x30 ≤ a.toNat) ∧
      (await idle [.write a 0xA5]).host.pending = [.write a 0xA5]) :=
  ⟨fun a h => ⟨by revert a; decide, rfl⟩, fun a h => ⟨by revert a; decide, rfl⟩⟩

/-- One read; two reads of an address with none and with one other read between them. -/
theorem witness_ReadsHaveNoSideEffect :
    (await idle [.read 0x01]).host.pending = [.read 0x01] ∧
    (await idle [.read 0x30, .read 0x30]).host.pending = .read 0x30 :: (([] : List Byte).map BusEvent.read ++ [.read 0x30]) ∧
    (await idle [.read 0x30, .read 0x00, .read 0x30]).host.pending =
      .read 0x30 :: ([(0x00 : Byte)].map BusEvent.read ++ [.read 0x30]) := ⟨rfl, rfl, rfl⟩

/-- The edges of the operand ranges, while a command is latched; a STATUS write; a CMD write. -/
theorem witness_OperandWritesStore :
    (∀ a ∈ [(0x03 : Byte), 0x04, 0x07, 0x10, 0x1F, 0x20, 0x2F],
      (a.toNat = 0x03 ∨ 0x04 ≤ a.toNat ∧ a.toNat ≤ 0x07 ∨ 0x10 ≤ a.toNat ∧ a.toNat ≤ 0x2F) ∧
        (await (latched idle 0x00) [.write a 0xA5]).host.pending = [.write a 0xA5]) ∧
    ((await idle [.write 0x01 0x40]).host.pending = [.write 0x01 0x40] ∧ (0x40 : Byte).getLsbD 6 = true) ∧
    ((await idle [.write 0x00 0xFF]).host.pending = [.write 0x00 0xFF] ∧ (await idle [.write 0x00 0xFF]).busy = false) :=
  ⟨fun a h => ⟨by revert a; decide, rfl⟩, ⟨rfl, rfl⟩, rfl, rfl⟩

/-- Both clauses: an idle block and a busy one. -/
theorem witness_CmdWriteLatchesOrOverruns :
    (await idle [.write 0x00 0x07]).host.pending = [.write 0x00 0x07] ∧ (await idle [.write 0x00 0x07]).busy = false ∧
    (await (latched idle 0x06) [.write 0x00 0x00]).host.pending = [.write 0x00 0x00] ∧
    (await (latched idle 0x06) [.write 0x00 0x00]).busy = true := ⟨rfl, rfl, rfl, rfl⟩

theorem witness_StatusBits : (await idle [.write 0x01 0x40]).host.pending = [.write 0x01 0x40] := rfl

theorem witness_LatchedCommandShowsOldResults :
    (∃ t, (await encrypting [.write 0x00 0x03]).host.pending = [.write 0x00 0x03] ∧ (await encrypting [.write 0x00 0x03]).busy = false ∧
      step (await encrypting [.write 0x00 0x03]) = .next t) ∧
    ∀ e ∈ [BusEvent.read 0x01, .write 0x00 0x06, .write 0x01 0x40, .write 0xFF 0x00],
      ∃ t, (await (latched encrypting 0x03) [e]).busy = true ∧ (await (latched encrypting 0x03) [e]).host.pending = [e] ∧
        ((∃ a, e = .read a) ∨ ∃ a v, e = .write a v) ∧ step (await (latched encrypting 0x03) [e]) = .next t := by
  refine ⟨⟨_, rfl, rfl, rfl⟩, fun e h => ?_⟩
  simp only [List.mem_cons, List.not_mem_nil, or_false] at h
  rcases h with rfl | rfl | rfl | rfl
  · exact ⟨_, rfl, rfl, .inl ⟨_, rfl⟩, rfl⟩
  · exact ⟨_, rfl, rfl, .inr ⟨_, _, rfl⟩, rfl⟩
  · exact ⟨_, rfl, rfl, .inr ⟨_, _, rfl⟩, rfl⟩
  · exact ⟨_, rfl, rfl, .inr ⟨_, _, rfl⟩, rfl⟩

theorem witness_LatchedCommandDoesNotSeeWrites :
    ∃ t, (latched encrypting 0x06).busy = true ∧ engineStep (latched encrypting 0x06) = .next t ∧ (0x01 : Byte) ≠ 0x00 ∧
      (0x20 : Byte) ≠ 0x00 ∧ (0xFF : Byte) ≠ 0x00 := ⟨_, rfl, rfl, by decide, by decide, by decide⟩

/-! ### The engine step and decoding -/

theorem witness_StepRunsDecodedCommand :
    ((latched keyed 0x06).host.pending = [] ∧ (latched keyed 0x06).busy = true ∧ decode (latched keyed 0x06).pend.op = .ok .endSession) ∧
    ((await (latched keyed 0x03) [.engine]).host.pending = [.engine] ∧ (await (latched keyed 0x03) [.engine]).busy = true ∧
      decode (await (latched keyed 0x03) [.engine]).pend.op = .ok .encBlock) ∧
    (5 < 256 ∧ decode (BitVec.ofNat 8 5) = .ok .decBlock) := ⟨⟨rfl, rfl, rfl⟩, ⟨rfl, rfl, rfl⟩, by decide, rfl⟩

theorem witness_IdleBlockHoldsState :
    (idle.busy = false ∧ idle.host.pending = []) ∧
    ((await idle [.engine]).busy = false ∧ (await idle [.engine]).host.pending = [.engine]) := ⟨⟨rfl, rfl⟩, rfl, rfl⟩

/-- With and without accesses still to come. -/
theorem witness_LatchedCommandCompletes :
    ((latched keyed 0x00).busy = true ∧
      ∀ e ∈ (latched keyed 0x00).host.pending, (∃ a, e = .read a) ∨ ∃ a v, e = .write a v) ∧
    ((await (latched keyed 0x00) [.read 0x01, .write 0x00 0x06]).busy = true ∧
      ∀ e ∈ (await (latched keyed 0x00) [.read 0x01, .write 0x00 0x06]).host.pending, (∃ a, e = .read a) ∨ ∃ a v, e = .write a v) := by
  refine ⟨⟨rfl, ?_⟩, rfl, ?_⟩
  · intro e h; cases h
  · intro e h
    have h' : e ∈ [BusEvent.read 0x01, .write 0x00 0x06] := h
    simp only [List.mem_cons, List.not_mem_nil, or_false] at h'
    rcases h' with rfl | rfl
    · exact .inl ⟨_, rfl⟩
    · exact .inr ⟨_, _, rfl⟩

/-- A block whose self-check failed. -/
def faulted : State := { idle with tfault := true }

/-- The edges of the illegal bytes: 0x07, 0x0F, 0x10, 0xFF; without and with a table fault. -/
theorem witness_IllegalByteEndsWithBadOpcode :
    (∀ v ∈ [(0x07 : Byte), 0x0F, 0x10, 0xFF],
      (latched idle v).busy = true ∧ 0x07 ≤ (latched idle v).pend.op.toNat ∧ (latched idle v).tfault = false) ∧
    ((latched faulted 0x07).busy = true ∧ 0x07 ≤ (latched faulted 0x07).pend.op.toNat ∧ (latched faulted 0x07).tfault = true) :=
  ⟨fun v h => ⟨rfl, by revert v; decide, rfl⟩, rfl, by decide, rfl⟩

/-- A latched command under a table fault, and a reset that clears one. -/
theorem witness_TableFaultRefusesEveryCommand :
    ((latched faulted 0x00).busy = true ∧ (latched faulted 0x00).tfault = true) ∧
    ∃ t, step (await faulted [.reset]) = .next t ∧ t.tfault ≠ (await faulted [.reset]).tfault :=
  ⟨⟨rfl, rfl⟩, _, rfl, fun h => by
    have h' : (State.afterReset (tc1 .chain .left) (await faulted [.reset]).host).tfault = true := h
    rw [State.afterReset_tfault, tc1_selfCheck] at h'
    exact absurd h' (by decide)⟩

/-! ### What each command does -/

theorem witness_NopClearsErr : idle.tfault = false ∧ faulted.tfault = true := ⟨rfl, rfl⟩

/-- The four clauses: 16; a table fault; a session; 15, 17 and 0 bytes. -/
theorem witness_LoadKeyMakesFreshInstance :
    ((latched marked 0x01).tfault = false ∧ (latched marked 0x01).mode = .idle ∧ (latched marked 0x01).pend.keylen = 16) ∧
    faulted.tfault = true ∧ (encrypting.tfault = false ∧ encrypting.mode ≠ .idle) ∧
    (∀ k ∈ [(0 : Byte), 15, 17, 255], (latched { idle with keylen := k } 0x01).tfault = false ∧
      (latched { idle with keylen := k } 0x01).mode = .idle ∧ (latched { idle with keylen := k } 0x01).pend.keylen ≠ 16) :=
  ⟨⟨rfl, rfl, rfl⟩, rfl, ⟨rfl, by decide⟩, fun k h => ⟨rfl, rfl, by revert k; decide⟩⟩

/-- The five clauses: lengths 1 and 2^32 - 1; 0; a table fault; a session; no key. -/
theorem witness_EncBeginOpensSession :
    (∀ n ∈ [(1 : Word32), 0xFFFFFFFF], (latched { keyed with len := n } 0x02).tfault = false ∧
      (latched { keyed with len := n } 0x02).mode = .idle ∧ (latched { keyed with len := n } 0x02).keyv = true ∧
      (latched { keyed with len := n } 0x02).pend.len ≠ 0) ∧
    ((latched keyed 0x02).tfault = false ∧ (latched keyed 0x02).mode = .idle ∧ (latched keyed 0x02).keyv = true ∧
      (latched keyed 0x02).pend.len = 0) ∧
    faulted.tfault = true ∧ (decrypting.tfault = false ∧ decrypting.mode ≠ .idle) ∧
    (idle.tfault = false ∧ idle.mode = .idle ∧ idle.keyv = false) :=
  ⟨fun n h => ⟨rfl, rfl, rfl, memDecide (p := (· ≠ (0 : Word32))) h (by decide)⟩, ⟨rfl, rfl, rfl, rfl⟩, rfl, ⟨rfl, by decide⟩, rfl, rfl, rfl⟩

/-- The three clauses; a session with 1, 16, 17 and 2^32 - 1 bytes left. -/
theorem witness_EncBlockEncryptsOneBlock :
    (∀ n ∈ [(1 : Word32), 16, 17, 0xFFFFFFFF], ({ encrypting with remain := n } : State).tfault = false ∧
      ({ encrypting with remain := n } : State).mode = .enc) ∧
    faulted.tfault = true ∧ (idle.tfault = false ∧ idle.mode ≠ .enc) ∧ (decrypting.tfault = false ∧ decrypting.mode ≠ .enc) :=
  ⟨fun _ _ => ⟨rfl, rfl⟩, rfl, ⟨rfl, by decide⟩, rfl, by decide⟩

/-- The six clauses: lengths 16 and 2^32 - 16; 0; a table fault; a session; no key; lengths 1, 20 and 2^32 - 1. -/
theorem witness_DecBeginOpensSession :
    (∀ n ∈ [(16 : Word32), 0xFFFFFFF0], (latched { keyed with len := n } 0x04).tfault = false ∧
      (latched { keyed with len := n } 0x04).mode = .idle ∧ (latched { keyed with len := n } 0x04).keyv = true ∧
      (latched { keyed with len := n } 0x04).pend.len.toNat % 16 = 0 ∧ (latched { keyed with len := n } 0x04).pend.len ≠ 0) ∧
    ((latched keyed 0x04).tfault = false ∧ (latched keyed 0x04).mode = .idle ∧ (latched keyed 0x04).keyv = true ∧
      (latched keyed 0x04).pend.len = 0) ∧
    faulted.tfault = true ∧ (encrypting.tfault = false ∧ encrypting.mode ≠ .idle) ∧
    (idle.tfault = false ∧ idle.mode = .idle ∧ idle.keyv = false) ∧
    (∀ n ∈ [(1 : Word32), 20, 0xFFFFFFFF], (latched { keyed with len := n } 0x04).tfault = false ∧
      (latched { keyed with len := n } 0x04).mode = .idle ∧ (latched { keyed with len := n } 0x04).keyv = true ∧
      (latched { keyed with len := n } 0x04).pend.len.toNat % 16 ≠ 0) :=
  ⟨fun n h => ⟨rfl, rfl, rfl, memDecide (p := fun n : Word32 => n.toNat % 16 = 0 ∧ n ≠ 0) h (by decide)⟩, ⟨rfl, rfl, rfl, rfl⟩, rfl, ⟨rfl, by decide⟩, ⟨rfl, rfl, rfl⟩,
    fun n h => ⟨rfl, rfl, rfl, memDecide (p := fun n : Word32 => n.toNat % 16 ≠ 0) h (by decide)⟩⟩

/-- The three clauses; 16, 32 and 2^32 - 16 bytes left. -/
theorem witness_DecBlockDecryptsOneBlock :
    (∀ n ∈ [(16 : Word32), 32, 0xFFFFFFF0], ({ decrypting with remain := n } : State).tfault = false ∧
      ({ decrypting with remain := n } : State).mode = .dec ∧ 16 ≤ ({ decrypting with remain := n } : State).remain.toNat) ∧
    faulted.tfault = true ∧ (idle.tfault = false ∧ idle.mode ≠ .dec) ∧ (encrypting.tfault = false ∧ encrypting.mode ≠ .dec) :=
  ⟨fun n h => ⟨rfl, rfl, memDecide (p := fun n : Word32 => 16 ≤ n.toNat) h (by decide)⟩, rfl, ⟨rfl, by decide⟩, rfl, by decide⟩

theorem witness_EndAbandonsSession : encrypting.tfault = false ∧ faulted.tfault = true := ⟨rfl, rfl⟩

/-! ### Errors and frames -/

theorem witness_RejectedCommandChangesOnlyErr :
    ∃ t, (latched encrypting 0x05).busy = true ∧ engineStep (latched encrypting 0x05) = .next t ∧ t.err ≠ 0 :=
  ⟨_, rfl, rfl, by decide⟩

theorem witness_ErrorPriority : ∃ t, (latched idle 0x04).busy = true ∧ engineStep (latched idle 0x04) = .next t := ⟨_, rfl, rfl⟩

theorem witness_SessionExclusivity :
    ∀ i ∈ [Instr.loadKey, .encBegin, .decBegin], ∀ s ∈ [encrypting, decrypting],
      i ∈ [Instr.loadKey, .encBegin, .decBegin] ∧ s.tfault = false ∧ s.mode ≠ .idle := by
  intro i hi s hs
  simp only [List.mem_cons, List.not_mem_nil, or_false] at hs
  rcases hs with rfl | rfl
  · exact ⟨hi, rfl, by decide⟩
  · exact ⟨hi, rfl, by decide⟩

/-- Every command has a next state to speak of, here with its effect. -/
theorem witness_CommandFrame :
    (∃ t, exec .nop keyed = .next t) ∧ (∃ t, exec .loadKey (latched marked 0x01) = .next t) ∧
    (∃ t, exec .encBegin (latched { keyed with len := 20 } 0x02) = .next t) ∧ (∃ t, exec .encBlock encrypting = .next t) ∧
    (∃ t, exec .decBegin (latched { keyed with len := 32 } 0x04) = .next t) ∧ (∃ t, exec .decBlock decrypting = .next t) ∧
    ∃ t, exec .endSession encrypting = .next t := ⟨⟨_, rfl⟩, ⟨_, rfl⟩, ⟨_, rfl⟩, ⟨_, rfl⟩, ⟨_, rfl⟩, ⟨_, rfl⟩, _, rfl⟩

/-- Both ways a key changes. -/
theorem witness_OnlyLoadKeyOrResetChangesKey :
    (∃ t, step (await marked [.reset]) = .next t ∧ t.key ≠ (await marked [.reset]).key) ∧
    ∃ t, step (latched marked 0x01) = .next t ∧ t.key ≠ (latched marked 0x01).key :=
  ⟨⟨_, rfl, by decide +kernel⟩, _, rfl, by decide +kernel⟩

/-- The right rotor of machine 0 after a state's next step. -/
def rightRotor (s : State) : Option Byte := (nextState? (step s)).map fun t => t.machines[0].pos[2]

theorem machines_ne {s t : State} (h : step s = .next t) (hr : rightRotor s = some 0x10) (h0 : s.machines[0].pos[2] = 0x00) :
    t.machines ≠ s.machines := by
  intro hm
  rw [rightRotor, h] at hr
  simp only [nextState?, Option.map_some, hm, h0, Option.some.injEq] at hr
  exact absurd hr (by decide)

/-- Machine 0 moves in both block commands. -/
theorem witness_OnlyBlockCommandsMoveMachines :
    (∃ t, step (latched { encrypting with built := true } 0x03) = .next t ∧ t.built = true ∧
      t.machines ≠ (latched { encrypting with built := true } 0x03).machines) ∧
    ∃ t, step (latched { decrypting with built := true } 0x05) = .next t ∧ t.built = true ∧
      t.machines ≠ (latched { decrypting with built := true } 0x05).machines :=
  ⟨⟨_, rfl, rfl, machines_ne rfl (by decide +kernel) (by decide +kernel)⟩, _, rfl, rfl, machines_ne rfl (by decide +kernel) (by decide +kernel)⟩

/-! ### The cipher -/

theorem witness_BackwardInvertsForward : selfCheck (tc1 .chain .left) = true := tc1_selfCheck _ _

/-- Machines with an empty plugboard; a plugboard that swaps two bytes is symmetric as well. -/
theorem witness_EncryptByteIsInvolution :
    selfCheck (tc1 .chain .left) = true ∧ (∀ x, plugSubst (machineOf [(1, 2), (2, 1)]) (plugSubst (machineOf [(1, 2), (2, 1)]) x) = x) ∧
      (∀ x, plugSubst (machineOf []) (plugSubst (machineOf []) x) = x) :=
  ⟨tc1_selfCheck _ _, by decide +kernel, by decide +kernel⟩

theorem witness_MachineParamsAreShiftedBytes : (tc1 .chain .left).posSrc = .left ∧ (tc1 .chain .right).posSrc = .right ∧ 2 < 3 :=
  ⟨rfl, rfl, by decide⟩

theorem witness_ScheduleStepRecurrence :
    (tc1 .chain .left).schedRefresh = .chain ∧ (tc1 .self .left).schedRefresh = .self ∧
    (∃ t, exec .encBlock encrypting = .next t ∧ t.err = 0) ∧ ∃ t, exec .decBlock decrypting = .next t ∧ t.err = 0 :=
  ⟨rfl, rfl, ⟨_, rfl, rfl⟩, _, rfl, rfl⟩

theorem witness_BuiltMachinesOnlyDrift : ({ keyed with built := true } : State).built = true := rfl

/-- Two rotor files with the same machines and other subkeys. -/
theorem witness_UnwrittenSubkeysNeverRead :
    (tc1 .chain .left).schedRefresh = .chain ∧
      (RotorFile.mk idle.machines idle.sk).machines = (RotorFile.mk idle.machines (Vector.replicate 16 ks0)).machines := ⟨rfl, rfl⟩

/-- An encrypt and a decrypt session of one instance, with other data. -/
theorem witness_ScheduleIndependentOfDataAndDirection :
    ∃ t t', encrypting.cfg = decrypting.cfg ∧ encrypting.key = decrypting.key ∧ encrypting.built = decrypting.built ∧
      encrypting.machines = decrypting.machines ∧ encrypting.sk = decrypting.sk ∧ encrypting.tfault = false ∧
      decrypting.tfault = false ∧ encrypting.mode = .enc ∧ decrypting.mode = .dec ∧ exec .encBlock encrypting = .next t ∧
      exec .decBlock decrypting = .next t' := ⟨_, _, rfl, rfl, rfl, rfl, rfl, rfl, rfl, rfl, rfl, rfl, rfl⟩

/-- Two inputs of the S-box layer that differ in the bits it does not read. -/
theorem witness_SBoxLayerLookup :
    ∀ (k : Nat) (h : k < 8), (zeroBlock[2 * k] &&& 0x8F = (Vector.replicate 16 (0x70 : Byte))[2 * k] &&& 0x8F) ∧
      (zeroBlock[2 * k + 1] &&& 0x80 = (Vector.replicate 16 (0x70 : Byte))[2 * k + 1] &&& 0x80) := by
  intro k h
  simp [zeroBlock]

/-! ### Whole calls -/

/-- 20 bytes of plaintext, passed with other bytes than zero after its end. -/
def plain20 : List Byte := List.replicate 20 0x41
def blocks20 : List Block := [Vector.replicate 16 0x41, Vector.ofFn fun i => if i.val < 4 then 0x41 else 0xEE]

theorem witness_EncryptCallIsChaining :
    (keyed.Ready ∧ keyed.mode = .idle ∧ keyed.keyv = true) ∧ plain20.length < 2 ^ 32 ∧
      blocks20.length = blockCount plain20.length ∧
      ∀ (j : Nat) (hj : j < blocks20.length) (i : Nat) (hi : i < 16) (hp : 16 * j + i < plain20.length),
        (blocks20[j])[i] = plain20[16 * j + i] := by
  refine ⟨⟨⟨rfl, rfl⟩, rfl, rfl⟩, by decide, by decide, ?_⟩
  intro j hj i hi hp
  have hj' : j = 0 ∨ j = 1 := by simp only [blocks20, List.length_cons, List.length_nil] at hj; omega
  simp only [plain20, List.length_replicate] at hp
  have h1 : plain20[16 * j + i]'(by simpa [plain20] using hp) = 0x41 := List.getElem_replicate ..
  rw [h1]
  rcases hj' with rfl | rfl
  · simp [blocks20]
  · simp [blocks20, show i < 4 by omega]

/-- The empty plaintext. -/
theorem witness_EncryptCallIsChaining_empty : ([] : List Byte).length < 2 ^ 32 ∧ ([] : List Block).length = blockCount ([] : List Byte).length :=
  ⟨by decide, rfl⟩

theorem witness_DecryptCallIsChaining : keyed.Ready ∧ keyed.mode = .idle ∧ keyed.keyv = true ∧ 16 * blocks20.length < 2 ^ 32 :=
  ⟨⟨rfl, rfl⟩, rfl, rfl, by decide⟩

theorem witness_RoundTripOnFreshInstances : idle.Ready ∧ idle.mode = .idle ∧ plain20.length ≤ 2 ^ 32 - 16 :=
  ⟨⟨rfl, rfl⟩, rfl, by decide⟩

/-- Plaintexts of 0, 1, 16 and 17 bytes, with all their blocks. -/
theorem witness_CiphertextLength :
    (keyed.Ready ∧ keyed.mode = .idle ∧ keyed.keyv = true) ∧
    ∀ n ∈ [0, 1, 16, 17], (List.replicate n (0x41 : Byte)).length < 2 ^ 32 ∧
      16 * ((List.replicate ((n + 15) / 16) zeroBlock).length) < (List.replicate n (0x41 : Byte)).length + 16 :=
  ⟨⟨⟨rfl, rfl⟩, rfl, rfl⟩, by decide⟩

/-- Sixteen bytes of plaintext. -/
def plainA : List Byte := List.replicate 16 0x41

theorem bufferBlock_last (a b : Byte) (j : Nat) (hj : j ≠ 1) :
    bufferBlock (plainA ++ [a]) j = bufferBlock (plainA ++ [b]) j := by
  apply Vector.ext
  intro i hi
  simp only [bufferBlock, Vector.getElem_ofFn, List.getD_eq_getElem?_getD, List.getElem?_append]
  by_cases h : 16 * j + i < plainA.length
  · rw [if_pos h, if_pos h]
  · have hl : plainA.length = 16 := by decide
    rw [if_neg h, if_neg h, List.getElem?_eq_none (by simp only [List.length_singleton]; omega),
      List.getElem?_eq_none (by simp only [List.length_singleton]; omega)]

theorem bufferBlock_first (a b : Byte) (j : Nat) (hj : j ≠ 0) : bufferBlock (a :: plainA) j = bufferBlock (b :: plainA) j := by
  apply Vector.ext
  intro i hi
  simp only [bufferBlock, Vector.getElem_ofFn, List.getD_eq_getElem?_getD]
  rw [show 16 * j + i = (16 * j + i - 1) + 1 by omega, List.getElem?_cons_succ, List.getElem?_cons_succ]

/-- Two plaintexts of 17 bytes that differ in block 1, and two that differ in block 0. -/
theorem witness_ChainingCausality :
    (keyed.Ready ∧ keyed.mode = .idle ∧ keyed.keyv = true) ∧
    (∃ t u cs ds, (plainA ++ [0x01]).length < 2 ^ 32 ∧ (plainA ++ [0x01]).length = (plainA ++ [0x02]).length ∧
      1 < blockCount (plainA ++ [0x01]).length ∧ bufferBlock (plainA ++ [0x01]) 1 ≠ bufferBlock (plainA ++ [0x02]) 1 ∧
      (∀ j, j ≠ 1 → bufferBlock (plainA ++ [0x01]) j = bufferBlock (plainA ++ [0x02]) j) ∧
      keyed.encryptCall (plainA ++ [0x01]) = some (t, cs) ∧ keyed.encryptCall (plainA ++ [0x02]) = some (u, ds)) ∧
    (∃ t u cs ds, (0x01 :: plainA).length < 2 ^ 32 ∧ (0x01 :: plainA).length = (0x02 :: plainA).length ∧
      0 < blockCount (0x01 :: plainA).length ∧ bufferBlock (0x01 :: plainA) 0 ≠ bufferBlock (0x02 :: plainA) 0 ∧
      (∀ j, j ≠ 0 → bufferBlock (0x01 :: plainA) j = bufferBlock (0x02 :: plainA) j) ∧
      keyed.encryptCall (0x01 :: plainA) = some (t, cs) ∧ keyed.encryptCall (0x02 :: plainA) = some (u, ds)) := by
  obtain ⟨t1, c1, h1⟩ := State.call_completes (s := keyed) .encBegin .encBlock (plainA ++ [0x01]).length (bufferBlocks (plainA ++ [0x01])) rfl
  obtain ⟨t2, c2, h2⟩ := State.call_completes (s := keyed) .encBegin .encBlock (plainA ++ [0x02]).length (bufferBlocks (plainA ++ [0x02])) rfl
  obtain ⟨t3, c3, h3⟩ := State.call_completes (s := keyed) .encBegin .encBlock (0x01 :: plainA).length (bufferBlocks (0x01 :: plainA)) rfl
  obtain ⟨t4, c4, h4⟩ := State.call_completes (s := keyed) .encBegin .encBlock (0x02 :: plainA).length (bufferBlocks (0x02 :: plainA)) rfl
  exact ⟨⟨⟨rfl, rfl⟩, rfl, rfl⟩,
    ⟨t1, t2, c1, c2, by decide, by decide, by decide, by decide +kernel, bufferBlock_last _ _, h1, h2⟩,
    t3, t4, c3, c4, by decide, by decide, by decide, by decide +kernel, bufferBlock_first _ _, h3, h4⟩

/-- With and without polls, on a command that succeeds and on one that is refused. -/
theorem witness_RunStatementWaitsForCompletion :
    (keyed.busy = false ∧ ∃ t, keyed.issue .endSession = some t) ∧ (idle.busy = false ∧ ∃ t, idle.issue .encBlock = some t) :=
  ⟨⟨rfl, _, rfl⟩, rfl, _, rfl⟩

/-- An idle block, and a command latched; an `expect` that holds and one that does not. -/
theorem witness_WaitAndExpectEndAsRead :
    idle.busy = false ∧ (∃ t, (latched keyed 0x06).busy = true ∧ engineStep (latched keyed 0x06) = .next t) ∧
    idle.regRead 0x00 = 0x00 ∧ idle.regRead 0x00 ≠ 0x01 := ⟨rfl, ⟨_, rfl, rfl⟩, rfl, by decide⟩

/-- The constructor, `encrypt`, and `decrypt` of two blocks. -/
theorem witness_HostProgramsRunTheCalls :
    (idle.busy = false ∧ ∃ t, idle.construct zeroBlock = some t) ∧
    (keyed.busy = false ∧ ∃ t os, keyed.encryptCall plain20 = some (t, os)) ∧
    ((List.replicate 32 (0x41 : Byte)).length % 16 = 0 ∧
      ∃ t os, keyed.decryptCall (wholeBlocks (List.replicate 32 0x41)) = some (t, os)) := by
  refine ⟨⟨rfl, ?_⟩, ⟨rfl, State.call_completes _ _ _ _ rfl⟩, by decide, State.call_completes _ _ _ _ rfl⟩
  obtain ⟨t, h, -⟩ := State.issue_completes (s := (idle.putKey zeroBlock).regWrite (Reg.address .keylen) 16)
    (by rw [State.putKey_eq]; rfl) .loadKey
  exact ⟨t, h⟩

/-! ### Invariants -/

/-- A session in progress keeps the invariants, and has a next step. -/
theorem witness_StepKeepsInvariants :
    (latched { decrypting with pend := Pend.empty } 0x05).Inv ∧ ∃ t, step (latched decrypting 0x05) = .next t := by
  refine ⟨?_, _, rfl⟩
  refine ⟨fun h => absurd h (by decide), fun h => absurd h (by decide), fun _ => ⟨rfl, by decide⟩, fun _ => by decide,
    fun h => absurd h (by decide), by decide +kernel, by decide, ?_, ?_⟩
  · exact (congrArg not (tc1_selfCheck .chain .left)).symm
  · decide +kernel

/-- Two states with other machines, subkeys and PEND, nothing built and nothing latched. -/
theorem witness_UnspecifiedContentsStayUnobservable :
    (await keyed [.read 0x01]).Agree (await { keyed with sk := Vector.replicate 16 ks0, machines := Vector.replicate 16 (machineOf []), pend := { Pend.empty with op := 0x42 } } [.read 0x01]) ∧
    (∃ t, step (await keyed [.read 0x01]) = .next t) ∧
    ∃ t, step (await { keyed with sk := Vector.replicate 16 ks0, machines := Vector.replicate 16 (machineOf []), pend := { Pend.empty with op := 0x42 } } [.read 0x01]) = .next t :=
  ⟨⟨fun h => absurd h (by decide), fun h => absurd h (by decide), fun h => absurd h (by decide), rfl⟩, ⟨_, rfl⟩, _, rfl⟩

end Sys2Proof.Tests
end

section
/-! Loading a configuration from plain numbers (spec/00_scope.md rules R8, R9). Every reader of WellFormed.lean is the partial
inverse of an embedding into plain numbers (`Function.IsPartialInv`), so `RawTables.load` accepts exactly the numbers that
`Tables.toRaw` writes for tables with the two conditions of `Config`, and those are the well-formed ones. -/

namespace Sys2Proof

open Function (IsPartialInv)

/-! ### The readers of single entries -/

theorem toByte?_isPartialInv : IsPartialInv (BitVec.toNat (w := 8)) toByte? := by
  intro b n
  unfold toByte?
  split
  · simp only [Option.some.injEq]
    constructor <;> rintro rfl
    · exact Nat.mod_eq_of_lt ‹_›
    · simp
  · have := b.isLt
    simp only [reduceCtorEq, false_iff]
    omega

theorem toExpIndex?_isPartialInv : IsPartialInv (Fin.val (n := 64)) toExpIndex? := by
  intro i n
  unfold toExpIndex?
  split
  · simp only [Option.some.injEq, Fin.ext_iff, eq_comm]
  · have := i.isLt
    simp only [reduceCtorEq, false_iff]
    omega

theorem toShift?_isPartialInv : IsPartialInv ShiftAmount.toNat toShift? := by
  intro s n
  unfold toShift?
  split <;> cases s <;> simp_all [ShiftAmount.toNat, eq_comm]

/-! ### The readers of vectors -/

section
variable {α β : Type} {f : α → Option β} {g : β → α} {n : Nat}

theorem toVector?_isPartialInv : IsPartialInv (Vector.toList (α := β) (n := n)) (toVector? n) := by
  intro v l
  unfold toVector?
  split
  · simp only [Option.some.injEq]
    constructor <;> rintro rfl <;> rfl
  · have hlen := v.length_toList
    simp only [reduceCtorEq, false_iff]
    rintro rfl
    contradiction

theorem mapM_isPartialInv (h : IsPartialInv g f) : IsPartialInv (List.map g) (List.mapM f) := by
  intro m l
  induction l generalizing m with
  | nil => simp [eq_comm]
  | cons a l ih =>
    cases m with
    | nil => simp [Option.bind_eq_some_iff]
    | cons b m => simp [Option.bind_eq_some_iff, ih, h b a]

theorem toVectorOf?_isPartialInv (h : IsPartialInv g f) :
    IsPartialInv (fun v : Vector β n => v.toList.map g) (toVectorOf? f n) := by
  intro v l
  simp only [toVectorOf?, Option.bind_eq_some_iff, mapM_isPartialInv h _ _, toVector?_isPartialInv _ _]
  exact ⟨fun ⟨_, hl, hv⟩ => hv ▸ hl, fun hl => ⟨_, hl, rfl⟩⟩

/-- The lists a vector of entries is written as: those of its length whose every member is some entry. -/
theorem exists_vector_map_eq {l : List α} (hlen : l.length = n) (h : ∀ x ∈ l, ∃ b, g b = x) :
    ∃ v : Vector β n, v.toList.map g = l := by
  obtain ⟨m, rfl⟩ : l ∈ Set.range (List.map g) := Set.range_list_map g ▸ h
  exact ⟨⟨m.toArray, by simpa using hlen⟩, rfl⟩

end

/-- A byte table, or a row of an S-box, as plain numbers. -/
def bytesToRaw {n : Nat} (v : Vector Byte n) : List Nat := v.toList.map BitVec.toNat

/-- The S-boxes as plain numbers. -/
def sboxToRaw (v : Vector (Vector (Vector Byte 16) 2) 8) : List (List (List Nat)) :=
  v.toList.map fun box => box.toList.map bytesToRaw

theorem toBytes?_isPartialInv {n : Nat} : IsPartialInv (bytesToRaw (n := n)) (toVectorOf? toByte? n) :=
  toVectorOf?_isPartialInv toByte?_isPartialInv

theorem toSbox?_isPartialInv : IsPartialInv sboxToRaw toSbox? :=
  toVectorOf?_isPartialInv (toVectorOf?_isPartialInv toBytes?_isPartialInv)

theorem exists_bytesToRaw_eq {n : Nat} {l : List Nat} (h : l.length = n ∧ ∀ x ∈ l, x < 256) :
    ∃ v : Vector Byte n, bytesToRaw v = l :=
  exists_vector_map_eq h.1 fun x hx => ⟨BitVec.ofNat 8 x, Nat.mod_eq_of_lt (h.2 x hx)⟩

theorem bytesToRaw_bytes {n : Nat} (v : Vector Byte n) : (bytesToRaw v).length = n ∧ ∀ x ∈ bytesToRaw v, x < 256 := by
  refine ⟨by simp [bytesToRaw], ?_⟩
  simp only [bytesToRaw, List.forall_mem_map]
  exact fun b _ => b.isLt

theorem bytesToRaw_nodup_iff {n : Nat} (v : Vector Byte n) : (bytesToRaw v).Nodup ↔ v.toList.Nodup :=
  List.nodup_map_iff fun _ _ => BitVec.eq_of_toNat_eq

theorem bytesToRaw_getD (v : ByteTable) (b : Byte) : (bytesToRaw v).getD b.toNat 0 = (v[b.toNat]'b.isLt).toNat := by
  have hb : b.toNat < 256 := b.isLt
  simp [bytesToRaw, List.getD_eq_getElem?_getD, hb]

/-! ### Whole configurations -/

/-- Tables as a platform would offer them. -/
def Tables.toRaw (t : Tables) : RawTables where
  fwd := bytesToRaw t.rotorI.fwd
  inv := bytesToRaw t.rotorI.inv
  notch := t.rotorI.notch.toNat
  refl := bytesToRaw t.refl
  exp := t.exp.toList.map Fin.val
  sbox := sboxToRaw t.sbox
  shifts := t.shifts.toList.map ShiftAmount.toNat

/-- What loading accepts, and what it makes of it: the tables that were written, with the switches given. -/
theorem RawTables.load_eq_ok_iff {r : RawTables} {a : SchedRefresh} {b : PosSrc} {c : Config} :
    r.load a b = .ok c ↔ c.tables.toRaw = r ∧ c.schedRefresh = a ∧ c.posSrc = b := by
  constructor
  · intro h
    unfold RawTables.load at h
    split at h <;> try contradiction
    next fwd inv notch refl hfwd hinv hnotch hrefl =>
    split at h <;> try contradiction
    next exp hexp =>
    split at h <;> try contradiction
    next shifts hshifts =>
    split at h <;> try contradiction
    next sbox hsbox =>
    dsimp only at h
    split at h <;> try contradiction
    split at h <;> try contradiction
    cases h
    refine ⟨?_, rfl, rfl⟩
    cases r
    simp only [Tables.toRaw, RawTables.mk.injEq]
    exact ⟨(toBytes?_isPartialInv _ _).1 hfwd, (toBytes?_isPartialInv _ _).1 hinv, (toByte?_isPartialInv _ _).1 hnotch,
      (toBytes?_isPartialInv _ _).1 hrefl, (toVectorOf?_isPartialInv toExpIndex?_isPartialInv _ _).1 hexp,
      (toSbox?_isPartialInv _ _).1 hsbox, (toVectorOf?_isPartialInv toShift?_isPartialInv _ _).1 hshifts⟩
  · rintro ⟨rfl, rfl, rfl⟩
    simp only [RawTables.load, Tables.toRaw, toBytes?_isPartialInv.eq, toByte?_isPartialInv.eq, toSbox?_isPartialInv.eq,
      (toVectorOf?_isPartialInv toExpIndex?_isPartialInv).eq, (toVectorOf?_isPartialInv toShift?_isPartialInv).eq]
    rw [dif_pos c.refl_involution, dif_pos c.fwd_permutation]

/-- R9(b), on bytes and on the numbers they are written as. -/
theorem Tables.toRaw_refl_involution_iff (t : Tables) :
    (∀ x < 256, t.toRaw.refl.getD (t.toRaw.refl.getD x 0) 0 = x) ↔ t.ReflIsInvolution := by
  have hbyte (b : Byte) : t.toRaw.refl.getD (t.toRaw.refl.getD b.toNat 0) 0 = b.toNat ↔
      t.refl[(t.refl[b.toNat]'b.isLt).toNat]'(BitVec.isLt _) = b := by
    rw [Tables.toRaw, bytesToRaw_getD, bytesToRaw_getD, BitVec.toNat_inj]
  constructor
  · exact fun h b _ => (hbyte b).1 (h b.toNat b.isLt)
  · intro h x hx
    have hxb : (BitVec.ofNat 8 x).toNat = x := Nat.mod_eq_of_lt hx
    exact hxb ▸ (hbyte (BitVec.ofNat 8 x)).2 (h _ (Machine.mem_allBytes _))

/-- Of R9, (c), (d) and (e) hold of all tables, by their types; (a) and (b) are what `Config` adds. -/
theorem Tables.toRaw_wellFormed_iff (t : Tables) :
    t.toRaw.WellFormed ↔ t.FwdIsPermutation ∧ t.ReflIsInvolution := by
  constructor
  · exact fun h => ⟨(bytesToRaw_nodup_iff _).1 h.fwd_permutation, t.toRaw_refl_involution_iff.1 h.refl_involution⟩
  · rintro ⟨hfwd, hrefl⟩
    exact {
      fwd_bytes := bytesToRaw_bytes _
      inv_bytes := bytesToRaw_bytes _
      refl_bytes := bytesToRaw_bytes _
      notch_byte := t.rotorI.notch.isLt
      fwd_permutation := (bytesToRaw_nodup_iff _).2 hfwd
      refl_involution := t.toRaw_refl_involution_iff.2 hrefl
      exp_range := by
        simp only [Tables.toRaw, List.length_map, Vector.length_toList, List.forall_mem_map, true_and]
        exact fun i _ => i.isLt
      shifts_range := by
        simp only [Tables.toRaw, List.length_map, Vector.length_toList, List.forall_mem_map, true_and]
        rintro (_ | _) _
        · exact .inl rfl
        · exact .inr rfl
      sbox_bytes := by
        simp only [Tables.toRaw, sboxToRaw, List.length_map, Vector.length_toList, List.forall_mem_map, true_and]
        exact fun _ _ row _ => bytesToRaw_bytes row }

/-- The shapes and ranges of R8 and R9 are enough to read tables. -/
theorem RawTables.WellFormed.exists_toRaw_eq {r : RawTables} (h : r.WellFormed) : ∃ t : Tables, t.toRaw = r := by
  obtain ⟨fwd, hfwd⟩ := exists_bytesToRaw_eq h.fwd_bytes
  obtain ⟨inv, hinv⟩ := exists_bytesToRaw_eq h.inv_bytes
  obtain ⟨refl, hrefl⟩ := exists_bytesToRaw_eq h.refl_bytes
  obtain ⟨hexpLength, hexpRange⟩ := h.exp_range
  obtain ⟨exp, hexp⟩ := exists_vector_map_eq (g := Fin.val) hexpLength fun x hx => ⟨⟨x, hexpRange x hx⟩, rfl⟩
  obtain ⟨hshiftsLength, hshiftsRange⟩ := h.shifts_range
  obtain ⟨shifts, hshifts⟩ := exists_vector_map_eq (g := ShiftAmount.toNat) hshiftsLength fun x hx =>
    (hshiftsRange x hx).elim (fun h1 => ⟨.one, h1.symm⟩) (fun h2 => ⟨.two, h2.symm⟩)
  obtain ⟨hsboxLength, hboxes⟩ := h.sbox_bytes
  obtain ⟨sbox, hsbox⟩ : ∃ v, sboxToRaw v = r.sbox := exists_vector_map_eq hsboxLength fun box hbox =>
    exists_vector_map_eq (hboxes box hbox).1 fun row hrow => exists_bytesToRaw_eq ((hboxes box hbox).2 row hrow)
  refine ⟨⟨⟨fwd, inv, BitVec.ofNat 8 r.notch⟩, refl, exp, sbox, shifts⟩, ?_⟩
  have hnotch : (BitVec.ofNat 8 r.notch).toNat = r.notch := Nat.mod_eq_of_lt h.notch_byte
  simp only [Tables.toRaw, hfwd, hinv, hnotch, hrefl, hexp, hsbox, hshifts]

/-- Settles O3: an accepted configuration is the reading of what its tables are written as, and every well-formed
configuration is written by some tables. -/
theorem configurationLoadsIffWellFormed : Obligations.ConfigurationLoadsIffWellFormed := by
  intro r a b
  constructor
  · rintro ⟨c, hload⟩
    obtain ⟨rfl, -, -⟩ := RawTables.load_eq_ok_iff.1 hload
    exact c.tables.toRaw_wellFormed_iff.2 ⟨c.fwd_permutation, c.refl_involution⟩
  · intro hwf
    obtain ⟨t, rfl⟩ := hwf.exists_toRaw_eq
    obtain ⟨hfwd, hrefl⟩ := t.toRaw_wellFormed_iff.1 hwf
    exact ⟨⟨t, a, b, hfwd, hrefl⟩, RawTables.load_eq_ok_iff.2 ⟨rfl, rfl, rfl⟩⟩

end Sys2Proof
end

section
/-! The state (spec/10_state.md): what a step can be, said once; the bits of STATUS (R40); the configuration, which no step
changes (R41); what the schedule step reads of M and SK (R24, R26); and the invariants that every step keeps (R43). -/

namespace Sys2Proof.Machine

/-! ### What a step can be -/

/-- The next states of the engine's turn, with the guards that lead to them (R93, R200, R255). -/
theorem engineStep_next_cases {s t : State} (h : engineStep s = .next t) :
    s.busy = false ∧ t = s ∨
      (∃ i, s.busy = true ∧ decode s.pend.op = .ok i ∧ Effect s i t) ∨
      (∃ e, s.busy = true ∧ decode s.pend.op = .error e ∧ t = s.illegalCommand) := by
  rcases engineStep_cases s with ⟨hb, hs⟩ | ⟨i, hb, hd, hs⟩ | ⟨e, hb, hd, hs⟩ <;> rw [hs] at h
  · cases h; exact .inl ⟨hb, rfl⟩
  · exact .inr (.inl ⟨i, hb, hd, exec_cases h⟩)
  · cases h; exact .inr (.inr ⟨e, hb, hd, rfl⟩)

/-- The next states of a step: the engine's turn, a host access or a reset, on the state from which the event has been taken
(R74). -/
theorem step_next_cases {s t : State} (h : step s = .next t) :
    ((s.host.pending = [] ∨ s.host.pending.head? = some .engine) ∧
        engineStep (s.withPending s.host.pending.tail) = .next t) ∨
      (∃ a, s.host.pending.head? = some (.read a) ∧ t = (s.withPending s.host.pending.tail).hostRead a) ∨
      (∃ a v, s.host.pending.head? = some (.write a v) ∧ t = (s.withPending s.host.pending.tail).regWrite a v) ∨
      (s.host.pending.head? = some .reset ∧ t = State.afterReset s.cfg (s.withPending s.host.pending.tail).host) := by
  rcases busStep_cases s with ⟨hp, hs⟩ | ⟨a, rest, hp, hs⟩ | ⟨a, v, rest, hp, hs⟩ | ⟨rest, hp, hs⟩ | ⟨rest, hp, hs⟩ <;>
    rw [step, hs] at h
  · have hsame : s.withPending s.host.pending.tail = s := by rw [hp, List.tail_nil, ← hp]; rfl
    exact .inl ⟨.inl hp, hsame.symm ▸ h⟩
  · cases h; exact .inr (.inl ⟨a, by simp [hp]⟩)
  · cases h; exact .inr (.inr (.inl ⟨a, v, by simp [hp]⟩))
  · exact .inl ⟨.inr (by simp [hp]), by simpa [hp] using h⟩
  · cases h; exact .inr (.inr (.inr (by simp [hp])))

/-- A register write that is the next event (R60, R74). -/
theorem step_write {s : State} {a v : Byte} {rest : List BusEvent} (h : s.host.pending = .write a v :: rest) :
    step s = .next ((s.withPending rest).regWrite a v) := by
  rw [step, State.busStep, h]; rfl

/-! ### STATUS -/

section
variable (s : State)

theorem State.regRead_status : s.regRead 0x01 = s.status := rfl
theorem State.regWrite_status (v : Byte) : s.regWrite 0x01 v = s.writeStatus v := rfl

/-- The bits of STATUS, from bit 0 up (R40). -/
theorem State.status_bit (i : Fin 8) :
    s.status.getLsbD i =
      [s.busy, s.keyv, s.built, s.mode.bits.getLsbD 0, s.mode.bits.getLsbD 1, s.tfault, s.ovr, s.errf][i] := by
  rw [State.status]
  simp only [BitVec.getLsbD_append]
  fin_cases i <;> simp

theorem State.status_errf : s.status.getLsbD 7 = s.errf := s.status_bit 7

theorem State.status_mode : s.status.extractLsb' 3 2 = s.mode.bits := by
  apply BitVec.eq_of_getLsbD_eq
  intro i hi
  rw [BitVec.getLsbD_extractLsb', decide_eq_true hi, Bool.true_and]
  interval_cases i
  · exact s.status_bit 3
  · exact s.status_bit 4

/-- R43(f). -/
theorem State.status_errf_iff : s.status.getLsbD 7 = true ↔ s.err ≠ 0 := by
  rw [State.status_errf]
  exact bne_iff_ne

end

/-- After reset every bit of STATUS but TFAULT is 0 (R44). -/
theorem State.afterReset_status (c : Config) (h : HostPort) :
    (State.afterReset c h).status = if selfCheck c then 0x00 else 0x20 := by
  cases hc : selfCheck c <;> simp [State.status, State.errf, Mode.bits, hc]

/-- Settles O10: STATUS bit by bit, then its write and its value after reset. -/
theorem statusBits : Obligations.StatusBits := by
  refine ⟨fun s => ?_, fun s v rest hp => ?_, State.afterReset_status⟩
  · refine ⟨s.status_busy, s.status_bit 1, s.status_bit 2, ?_, s.status_bit 5, s.status_bit 6, ?_⟩
    · rw [State.regRead_status, State.status_mode]
      cases s.mode <;> rfl
    · exact Bool.eq_iff_iff.2 (s.status_errf_iff.trans decide_eq_true_iff.symm)
  · rw [step_write hp, State.regWrite_status, State.writeStatus_eq, State.withPending_ovr]
    cases v.getLsbD 6 <;> simp

/-! ### The configuration -/

theorem Effect.cfg_eq {s t : State} {i : Instr} (h : Effect s i t) : t.cfg = s.cfg := by
  cases h <;> simp [State.encryptBlock, State.decryptBlock]

theorem engineStep_cfg {s t : State} (h : engineStep s = .next t) : t.cfg = s.cfg := by
  rcases engineStep_next_cases h with ⟨-, rfl⟩ | ⟨i, -, -, he⟩ | ⟨e, -, -, rfl⟩
  · rfl
  · exact he.cfg_eq
  · rw [State.illegalCommand_eq, State.raiseError_cfg]

theorem step_cfg {s t : State} (h : step s = .next t) : t.cfg = s.cfg := by
  rcases step_next_cases h with ⟨-, he⟩ | ⟨a, -, rfl⟩ | ⟨a, v, -, rfl⟩ | ⟨-, rfl⟩
  · exact (engineStep_cfg he).trans rfl
  · rfl
  · exact (State.regWrite_frame _ a v).1
  · rfl

theorem State.regRead_withCfg (s : State) (c : Config) (a : Byte) : State.regRead { s with cfg := c } a = s.regRead a := by
  unfold State.regRead
  cases regAt a <;> rfl

/-- Settles O4, by the cases of a step; no register is a table or a switch. -/
theorem configurationNeverChanges : Obligations.ConfigurationNeverChanges :=
  ⟨fun _ _ => step_cfg, State.regRead_withCfg⟩

/-! ### What the schedule step reads -/

theorem RotorFile.ext_get {f g : RotorFile} (h : ∀ i : Fin 16, f.machines[i] = g.machines[i] ∧ f.sk[i] = g.sk[i]) : f = g := by
  cases f; cases g
  congr 1
  · exact Vector.ext fun i hi => (h ⟨i, hi⟩).1
  · exact Vector.ext fun i hi => (h ⟨i, hi⟩).2

/-- Two rotor files whose rounds of the chain run the same machines (R144, R145). -/
def SameRounds (c : Config) (first : Bool) (f g : RotorFile) : Prop :=
  ∀ v i, roundMachine c first f v i = roundMachine c first g v i

/-- The first block builds every machine anew (R144). -/
theorem SameRounds.of_first (c : Config) (f g : RotorFile) : SameRounds c true f g := fun _ _ => rfl

theorem SameRounds.of_machines (c : Config) (first : Bool) {f g : RotorFile} (h : f.machines = g.machines) :
    SameRounds c first f g := fun v i => by simp [roundMachine, h]

theorem SameRounds.put {c : Config} {first : Bool} {f g : RotorFile} (h : SameRounds c first f g) (i : Fin 16)
    (m : RotorMachine) (k : Block) : SameRounds c first (f.put i m k) (g.put i m k) := by
  intro v j
  have hj := h v j
  cases first with
  | true => rfl
  | false =>
    simp only [roundMachine, Bool.false_eq_true, if_false] at hj ⊢
    rw [RotorFile.put_machines_get, RotorFile.put_machines_get, hj]

/-- Rounds that run the same machines make the same rotor file, where the files agree on every index no round writes. -/
theorem foldl_chainRound_congr {c : Config} {first : Bool} (l : List (Fin 16)) {f g : RotorFile} (v : Block)
    (hround : SameRounds c first f g) (hrest : ∀ i ∉ l, f.machines[i] = g.machines[i] ∧ f.sk[i] = g.sk[i]) :
    l.foldl (chainRound c first) (f, v) = l.foldl (chainRound c first) (g, v) := by
  induction l generalizing f g v with
  | nil => rw [RotorFile.ext_get fun i => hrest i List.not_mem_nil]
  | cons i l ih =>
    simp only [List.foldl_cons, chainRound_eq, hround v i]
    refine ih _ (hround.put i _ _) fun j hj => ?_
    simp only [RotorFile.put_machines_get, RotorFile.put_sk_get]
    by_cases hij : i = j
    · simp [hij]
    · simpa [hij] using hrest j (by simp [hj, Ne.symm hij])

/-- The sixteen rounds write every machine and every subkey, so the old ones matter only through the machines the rounds
run (R145). -/
theorem chainSchedule_congr {c : Config} {first : Bool} {f g : RotorFile} (key : Block) (h : SameRounds c first f g) :
    chainSchedule c key first f = chainSchedule c key first g :=
  congrArg Prod.fst (foldl_chainRound_congr _ key h fun i hi => absurd (List.mem_finRange i) hi)

/-- Under either switch the first block starts with the chain that builds the machines. -/
theorem schedule_first (c : Config) (key : Block) (f g : RotorFile) : schedule c key true f = schedule c key true g := by
  have hchain := chainSchedule_congr key (SameRounds.of_first c f g)
  unfold schedule
  cases c.schedRefresh with
  | chain => exact hchain
  | self => exact congrArg (fun r => (List.finRange 16).foldl (selfRound c) r) hchain

theorem schedule_chain {c : Config} (h : c.schedRefresh = .chain) (key : Block) (first : Bool) (f : RotorFile) :
    schedule c key first f = chainSchedule c key first f := by rw [schedule, h]

/-- Settles O41: the chain writes all of M and SK, and the machines its rounds run are new in a first block and M itself
later. -/
theorem unwrittenSubkeysNeverRead : Obligations.UnwrittenSubkeysNeverRead := by
  refine ⟨schedule_first, fun c key first f g hc hm => ?_⟩
  rw [schedule_chain hc, schedule_chain hc]
  exact chainSchedule_congr key (SameRounds.of_machines c first hm)

/-! ### Empty plugboards -/

/-- Every machine of the file has an empty plugboard (R112). -/
def RotorFile.PlugsEmpty (f : RotorFile) : Prop := ∀ i : Fin 16, f.machines[i].plug = []

theorem RotorFile.PlugsEmpty.put {f : RotorFile} (hf : f.PlugsEmpty) (i : Fin 16) {m : RotorMachine} (hm : m.plug = [])
    (k : Block) : (f.put i m k).PlugsEmpty := by
  intro j
  rw [RotorFile.put_machines_get]
  split
  · exact hm
  · exact hf j

theorem roundMachine_plug (c : Config) (first : Bool) {f : RotorFile} (hf : f.PlugsEmpty) (v : Block) (i : Fin 16) :
    (roundMachine c first f v i).plug = [] := by
  unfold roundMachine
  split
  · exact buildMachine_plug c i v
  · exact hf i

theorem chainSchedule_plugsEmpty (c : Config) (key : Block) (first : Bool) {f : RotorFile} (hf : f.PlugsEmpty) :
    (chainSchedule c key first f).PlugsEmpty := by
  refine List.foldlRecOn (motive := fun acc : RotorFile × Block => acc.1.PlugsEmpty) _ _ hf fun acc hacc i _ => ?_
  rw [chainRound_eq]
  exact hacc.put i ((rotorEncrypt_plug ..).trans (roundMachine_plug c first hacc acc.2 i)) _

theorem selfSchedule_plugsEmpty (c : Config) (key : Block) (first : Bool) {f : RotorFile} (hf : f.PlugsEmpty) :
    (selfSchedule c key first f).PlugsEmpty := by
  refine List.foldlRecOn (motive := RotorFile.PlugsEmpty) _ _ ?_ fun r hr i _ => ?_
  · split
    · exact chainSchedule_plugsEmpty c key true hf
    · exact hf
  · rw [selfRound_eq]
    exact hr.put i ((rotorEncrypt_plug ..).trans (hr i)) _

theorem schedule_plugsEmpty (c : Config) (key : Block) (first : Bool) {f : RotorFile} (hf : f.PlugsEmpty) :
    (schedule c key first f).PlugsEmpty := by
  unfold schedule
  split
  · exact chainSchedule_plugsEmpty c key first hf
  · exact selfSchedule_plugsEmpty c key first hf

/-! ### The invariants, operation by operation

An operation keeps by `h with` what the fields it leaves alone say, and gives the clauses about those it writes. R43(f) is the
definition of ERRF and holds of every state. -/

theorem ErrCode.code_le (e : ErrCode) : e.code.toNat ≤ 6 := by cases e <;> decide

/-- R43 (a) to (f) at the reset values (R44). -/
theorem State.afterReset_inv (c : Config) (p : HostPort) : (State.afterReset c p).Inv where
  idle _ := ⟨rfl, rfl⟩
  built_keyv h := nomatch h
  session h := absurd rfl h
  dec_aligned h := nomatch h
  tfault_dead _ := ⟨rfl, rfl, rfl⟩
  errf := State.status_errf_iff _
  err_code := by simp
  tfault_const := rfl
  plugs_empty i := by simp [RotorMachine.unbuilt]

namespace State.Inv

variable {s : State}

theorem withPending (h : s.Inv) (l : List BusEvent) : (s.withPending l).Inv := { h with errf := State.status_errf_iff _ }

theorem hostRead (h : s.Inv) (a : Byte) : (s.hostRead a).Inv := { h with errf := State.status_errf_iff _ }

theorem writeCmd (h : s.Inv) (v : Byte) : (s.writeCmd v).Inv := by
  unfold State.writeCmd
  split <;> exact { h with errf := State.status_errf_iff _ }

theorem writeStatus (h : s.Inv) (v : Byte) : (s.writeStatus v).Inv := by
  rw [State.writeStatus_eq]
  exact { h with errf := State.status_errf_iff _ }

/-- A host write reaches the operand registers, the latch and OVR, of which no invariant speaks (R66, R67). -/
theorem regWrite (h : s.Inv) (a v : Byte) : (s.regWrite a v).Inv := by
  rcases s.regWrite_cases a v with ⟨hw, -⟩ | ⟨hw, -⟩ | ⟨k, l, x, y, hw⟩
  · exact hw ▸ h.writeCmd v
  · exact hw ▸ h.writeStatus v
  · rw [hw]
    exact { h with errf := State.status_errf_iff _ }

theorem raiseError (h : s.Inv) (e : ErrCode) : (s.raiseError e).Inv :=
  { h with errf := State.status_errf_iff _, err_code := e.code_le }

theorem complete (h : s.Inv) : s.complete.Inv := h.raiseError .ok

theorem illegalCommand (h : s.Inv) : s.illegalCommand.Inv := s.illegalCommand_eq ▸ h.raiseError _

theorem loadKey (h : s.Inv) (ht : s.tfault = false) (hm : s.mode = .idle) : s.loadKey.Inv :=
  { h with
    errf := State.status_errf_iff _
    built_keyv := fun _ => rfl
    session := fun hs => absurd hm hs
    tfault_dead := fun hf => by simp [ht] at hf }

theorem beginSession (h : s.Inv) (ht : s.tfault = false) (hk : s.keyv = true) {m : Mode} (hm : m ≠ .idle) {n : Word32}
    (hn : n ≠ 0) (ha : m = .dec → n.toNat % 16 = 0) : (s.beginSession m n).Inv :=
  { h with
    errf := State.status_errf_iff _
    idle := fun hi => absurd hi hm
    session := fun _ => ⟨hk, BitVec.toNat_pos_of_ne_zero hn⟩
    dec_aligned := ha
    tfault_dead := fun hf => by simp [ht] at hf }

theorem endSession (h : s.Inv) : s.endSession.Inv :=
  { h with
    errf := State.status_errf_iff _
    idle := fun _ => ⟨rfl, rfl⟩
    session := fun hs => absurd rfl hs
    dec_aligned := fun hd => nomatch hd
    tfault_dead := fun hf =>
      have ⟨hbuilt, hkeyv, _⟩ := h.tfault_dead hf
      ⟨hbuilt, hkeyv, rfl⟩ }

/-- A schedule step sets BUILT, so a key must be loaded (R43(b)) and the self-check passed (R43(e)). -/
theorem scheduleStep (h : s.Inv) (ht : s.tfault = false) (hk : s.keyv = true) : s.scheduleStep.Inv :=
  { h with
    errf := State.status_errf_iff _
    built_keyv := fun _ => hk
    tfault_dead := fun hf => by simp [ht] at hf
    plugs_empty := schedule_plugsEmpty s.cfg s.key (!s.built) h.plugs_empty }

/-- The end of a block either closes the session or leaves bytes to come, a multiple of 16 of them in a decrypt session
(R43(c), (d)). -/
theorem finishBlock (h : s.Inv) (hs : s.mode ≠ .idle) (out prev : Block) {n : Nat} (hn : s.mode = .dec → n % 16 = 0) :
    (s.finishBlock out prev n).Inv := by
  rw [State.finishBlock_eq]
  split
  · exact { h.endSession with errf := State.status_errf_iff _ }
  · next hleft =>
    exact { h with
      errf := State.status_errf_iff _
      idle := fun hi => absurd hi hs
      session := fun _ => ⟨(h.session hs).1, BitVec.toNat_pos_of_ne_zero hleft⟩
      dec_aligned := fun hd => by
        have hr := h.dec_aligned hd
        have hn := hn hd
        simp only [BitVec.toNat_sub, BitVec.toNat_ofNat]
        omega }

/-- A successful block command, up to its ERR and BUSY: the schedule step, then the end of the block (R206, R209). -/
theorem block (h : s.Inv) (ht : s.tfault = false) (hs : s.mode ≠ .idle) (out prev : Block) {n : Nat}
    (hn : s.mode = .dec → n % 16 = 0) : (s.scheduleStep.finishBlock out prev n).Inv :=
  (h.scheduleStep ht (h.session hs).1).finishBlock hs out prev hn

end State.Inv

/-! ### The invariants, step by step -/

section
variable {s t : State}

/-- A command keeps the invariants, rejected or not (R202-R211, R243). -/
theorem Effect.inv {i : Instr} (he : Effect s i t) (h : s.Inv) : t.Inv := by
  cases he with
  | rejected _ e => exact h.raiseError e
  | nop | encEmpty | decEmpty => exact h.complete
  | loadKey ht hm => exact (h.loadKey ht hm).complete
  | encBegin ht _ hk hl => exact (h.beginSession ht hk (by decide) hl (by nofun)).complete
  | encBlock ht hm => exact (h.block ht (by simp [hm]) _ _ (by simp [hm])).complete
  | decBegin ht _ hk hl ha => exact (h.beginSession ht hk (by decide) hl fun _ => ha).complete
  | decBlock ht hm => exact (h.block ht (by simp [hm]) _ _ fun _ => rfl).complete
  | endSession => exact h.endSession.complete

theorem engineStep_inv (he : engineStep s = .next t) (h : s.Inv) : t.Inv := by
  rcases engineStep_next_cases he with ⟨-, rfl⟩ | ⟨i, -, -, hi⟩ | ⟨e, -, -, rfl⟩
  · exact h
  · exact hi.inv h
  · exact h.illegalCommand

theorem step_inv (hs : step s = .next t) (h : s.Inv) : t.Inv := by
  rcases step_next_cases hs with ⟨-, he⟩ | ⟨a, -, rfl⟩ | ⟨a, v, -, rfl⟩ | ⟨-, rfl⟩
  · exact engineStep_inv he (h.withPending _)
  · exact (h.withPending _).hostRead a
  · exact (h.withPending _).regWrite a v
  · exact State.afterReset_inv _ _

end

/-- Settles O58, by the cases of a step and then those of a command's effect. -/
theorem stepKeepsInvariants : Obligations.StepKeepsInvariants :=
  fun _ _ h hs => step_inv hs h

end Sys2Proof.Machine
end

section
/-! The register interface (spec/20_memory.md): which registers stand at the operand, ignored and zero addresses (R62, R64),
what reads and writes of them do (R63, R65-R67), and runs of reads. -/

namespace Sys2Proof.Machine

/-! ### The access column of the register map -/

/-- The registers a write stores a byte in (R62, R66). -/
def Reg.IsOperand : Reg → Prop
  | .keylen | .len _ | .keyIn _ | .blkIn _ => True
  | _ => False

/-- The registers that ignore a write: the read-only and the reserved ones (R62, R64). -/
def Reg.IgnoresWrite : Reg → Prop
  | .err | .remain _ | .blkOut _ | .reserved _ => True
  | _ => False

/-- The registers with no value of their own: CMD and the reserved ones (R64). -/
def Reg.ReadsZero : Reg → Prop
  | .cmd | .reserved _ => True
  | _ => False

section
variable (a : Byte)

theorem regAt_isOperand_iff :
    (regAt a).IsOperand ↔ a.toNat = 0x03 ∨ 0x04 ≤ a.toNat ∧ a.toNat ≤ 0x07 ∨ 0x10 ≤ a.toNat ∧ a.toNat ≤ 0x2F := by
  simp only [regAt]
  split_ifs <;> simp only [Reg.IsOperand, true_iff, false_iff] <;> omega

theorem regAt_ignoresWrite_iff :
    (regAt a).IgnoresWrite ↔ a.toNat = 0x02 ∨ 0x08 ≤ a.toNat ∧ a.toNat ≤ 0x0F ∨ 0x30 ≤ a.toNat := by
  simp only [regAt]
  split_ifs <;> simp only [Reg.IgnoresWrite, true_iff, false_iff] <;> omega

theorem regAt_readsZero_iff :
    (regAt a).ReadsZero ↔ a.toNat = 0x00 ∨ 0x0C ≤ a.toNat ∧ a.toNat ≤ 0x0F ∨ 0x40 ≤ a.toNat := by
  simp only [regAt]
  split_ifs <;> simp only [Reg.ReadsZero, true_iff, false_iff] <;> omega

end

/-- No register stands at two addresses (R62). -/
theorem regAt_injective : Function.Injective regAt := Function.LeftInverse.injective address_regAt

/-! ### Reads -/

/-- A counter is the little-endian sum of its bytes (R63). -/
theorem toNat_eq_counterBytes (w : Word32) :
    w.toNat = (counterByte w 0).toNat + 2 ^ 8 * (counterByte w 1).toNat + 2 ^ 16 * (counterByte w 2).toNat +
      2 ^ 24 * (counterByte w 3).toNat := by
  have hw := w.isLt
  have hbyte (i : Fin 4) : (counterByte w i).toNat = w.toNat / 2 ^ (8 * i.val) % 2 ^ 8 := by
    rw [counterByte, BitVec.extractLsb'_toNat, Nat.shiftRight_eq_div_pow]
  simp only [hbyte, Fin.val_zero, Fin.val_one, Fin.val_two, show (3 : Fin 4).val = 3 from rfl]
  omega

section
variable (s : State)

theorem State.regRead_keyIn (i : Fin 16) : s.regRead (Reg.address (.keyIn i)) = s.keyIn[i] := by
  rw [State.regRead, regAt_keyIn]

theorem State.regRead_blkIn (i : Fin 16) : s.regRead (Reg.address (.blkIn i)) = s.blkIn[i] := by
  rw [State.regRead, regAt_blkIn]

theorem State.regRead_blkOut (i : Fin 16) : s.regRead (Reg.address (.blkOut i)) = s.blkOut[i] := by
  rw [State.regRead, regAt_blkOut]

theorem State.regRead_readsZero {a : Byte} (h : (regAt a).ReadsZero) : s.regRead a = 0 := by
  unfold State.regRead
  cases hr : regAt a with
  | cmd | reserved => rfl
  | _ => simp [hr, Reg.ReadsZero] at h

end

/-- A read that is the next event: the host hears the byte, and the event is taken (R60, R65). -/
theorem step_read {s : State} {a : Byte} {rest : List BusEvent} (h : s.host.pending = .read a :: rest) :
    step s = .next ((s.withPending rest).hears [s.regRead a]) := by
  rw [step, State.busStep, h]; rfl

/-- A run over reads alone: each gives the byte the first state shows, and nothing but the host's lists changes (R65). -/
theorem RunsTo_reads (l : List Byte) {s : State} {rest : List BusEvent}
    (h : s.host.pending = l.map BusEvent.read ++ rest) :
    RunsTo l.length s ((s.withPending rest).hears (l.map s.regRead).reverse) := by
  induction l generalizing s with
  | nil =>
    obtain rfl : s.host.pending = rest := h
    exact (RunsTo_zero _ _).2 rfl
  | cons a l ih =>
    refine (RunsTo_succ (step_read h)).2 ?_
    have hrun := ih (s := (s.withPending (l.map BusEvent.read ++ rest)).hears [s.regRead a]) rfl
    rw [List.map_cons, List.reverse_cons, ← State.hears_hears]
    exact hrun

/-- Settles O7: one read by the step, and two with reads between them as one run over reads. -/
theorem readsHaveNoSideEffect : Obligations.ReadsHaveNoSideEffect := by
  refine ⟨fun s a rest h => step_read h, fun s a between rest h => ?_⟩
  have hrun := RunsTo_reads (a :: (between ++ [a])) (s := s) (rest := rest) (by simpa using h)
  simpa [State.hears, State.withPending] using hrun

/-! ### Writes -/

section
variable (s : State)

theorem State.regWrite_cmd (v : Byte) : s.regWrite 0x00 v = s.writeCmd v := rfl

theorem State.regWrite_ignored {a : Byte} (h : (regAt a).IgnoresWrite) (v : Byte) : s.regWrite a v = s := by
  unfold State.regWrite
  cases hr : regAt a with
  | err | remain | blkOut | reserved => rfl
  | _ => simp [hr, Reg.IgnoresWrite] at h

/-- An operand write reaches the four operand registers alone (R66). -/
theorem State.regWrite_operand_frame {a : Byte} (h : (regAt a).IsOperand) (v : Byte) :
    s.regWrite a v = { s with
      keylen := (s.regWrite a v).keylen, len := (s.regWrite a v).len, keyIn := (s.regWrite a v).keyIn,
      blkIn := (s.regWrite a v).blkIn } := by
  unfold State.regWrite
  cases hr : regAt a with
  | keylen | len | keyIn | blkIn => rfl
  | _ => simp [hr, Reg.IsOperand] at h

/-- An operand write stores the byte (R66). -/
theorem State.regRead_regWrite_same {a : Byte} (h : (regAt a).IsOperand) (v : Byte) :
    (s.regWrite a v).regRead a = v := by
  unfold State.regWrite State.regRead
  cases hr : regAt a with
  | keylen => rfl
  | len i => exact (counterByte_setCounterByte s.len i i v).trans (if_pos rfl)
  | keyIn i => exact Vector.getElem_set_self i.isLt
  | blkIn i => exact Vector.getElem_set_self i.isLt
  | _ => simp [hr, Reg.IsOperand] at h

/-- An operand write leaves every other byte of the register map: another byte of the same register stays, and no other
register depends on the one written (R66). -/
theorem State.regRead_regWrite_ne {a b : Byte} (h : (regAt a).IsOperand) (hne : b ≠ a) (v : Byte) :
    (s.regWrite a v).regRead b = s.regRead b := by
  have hreg : regAt b ≠ regAt a := regAt_injective.ne hne
  unfold State.regWrite State.regRead
  cases hr : regAt a with
  | keylen =>
    cases hq : regAt b with
    | keylen => exact absurd (hq.trans hr.symm) hreg
    | _ => rfl
  | len i =>
    cases hq : regAt b with
    | len j => exact (counterByte_setCounterByte s.len i j v).trans (if_neg fun e => hreg (by rw [hq, hr, e]))
    | _ => rfl
  | keyIn i =>
    cases hq : regAt b with
    | keyIn j => exact Vector.getElem_set_ne i.isLt j.isLt fun e => hreg (by rw [hq, hr, Fin.ext e])
    | _ => rfl
  | blkIn i =>
    cases hq : regAt b with
    | blkIn j => exact Vector.getElem_set_ne i.isLt j.isLt fun e => hreg (by rw [hq, hr, Fin.ext e])
    | _ => rfl
  | _ => simp [hr, Reg.IsOperand] at h

end

/-- Settles O8: the operand write by what reads show after it and by its frame, then the STATUS and the CMD write. -/
theorem operandWritesStore : Obligations.OperandWritesStore := by
  refine ⟨fun s a v rest ha hp => ?_, fun s v rest hp hv => ?_, fun s v rest hp hb => ?_⟩
  · have hop := (regAt_isOperand_iff a).2 ha
    exact ⟨_, step_write hp, State.regRead_regWrite_same _ hop v, fun b hne => State.regRead_regWrite_ne _ hop hne v,
      State.regWrite_operand_frame _ hop v⟩
  · rw [step_write hp, State.regWrite_status, State.writeStatus_eq, hv, Bool.not_true, Bool.and_false]
  · refine ⟨_, step_write hp, ?_⟩
    rw [State.regWrite_cmd, State.writeCmd_idle (s := s.withPending rest) hb]
    exact ⟨rfl, rfl⟩

/-- Settles O5: CMD, STATUS, ERR and KEYLEN by the map, the counters by their bytes, the rest by index. -/
theorem registerMapReads : Obligations.RegisterMapReads :=
  fun s => ⟨rfl, rfl, rfl, rfl, toNat_eq_counterBytes s.len, toNat_eq_counterBytes s.remain,
    fun i h => ⟨s.regRead_keyIn ⟨i, h⟩, s.regRead_blkIn ⟨i, h⟩, s.regRead_blkOut ⟨i, h⟩⟩⟩

/-- Settles O6, by the registers that stand at the addresses. -/
theorem reservedAndReadOnlyAddresses : Obligations.ReservedAndReadOnlyAddresses := by
  refine ⟨fun s a rest ha hp => ?_, fun s a v rest ha hp => ?_⟩
  · rw [step_read hp, s.regRead_readsZero ((regAt_readsZero_iff a).2 ha)]
    rfl
  · rw [step_write hp, State.regWrite_ignored _ ((regAt_ignoresWrite_iff a).2 ha)]

/-- Settles O9, by the two effects of a CMD write. -/
theorem cmdWriteLatchesOrOverruns : Obligations.CmdWriteLatchesOrOverruns := by
  intro s v rest hp
  rw [step_write hp, State.regWrite_cmd]
  exact ⟨fun hidle => congrArg _ (State.writeCmd_idle (s := s.withPending rest) hidle v),
    fun hbusy => congrArg _ (State.writeCmd_busy (s := s.withPending rest) hbusy v)⟩

end Sys2Proof.Machine
end

section
/-! The decoder and the encoder of the command byte (spec/30_encoding.md rules R90-R95): both are determined by the opcode map,
and the bytes it leaves out are the illegal ones. -/

namespace Sys2Proof

/-! ### The fields of a byte -/

/-- A byte is its two fields, RSV above OP (R90). -/
theorem rsvField_append_opField (v : Byte) : (rsvField v ++ opField v : BitVec 8) = v :=
  (BitVec.extractLsb'_append_extractLsb'_eq_extractLsb' (start₁ := 0) (len₁ := 4) rfl).trans BitVec.extractLsb'_eq_self

/-- The byte of a command, by the family of Laws/PerInstr.lean. -/
theorem encode_spec (i : Instr) : Laws.EncodesAsOpcode.Statement i := by
  cases i with
  | nop => exact Laws.EncodesAsOpcode.nop
  | loadKey => exact Laws.EncodesAsOpcode.loadKey
  | encBegin => exact Laws.EncodesAsOpcode.encBegin
  | encBlock => exact Laws.EncodesAsOpcode.encBlock
  | decBegin => exact Laws.EncodesAsOpcode.decBegin
  | decBlock => exact Laws.EncodesAsOpcode.decBlock
  | endSession => exact Laws.EncodesAsOpcode.endSession

theorem encode_toNat_lt (i : Instr) : (encode i).toNat < 7 :=
  have ⟨_, _, hlt, _⟩ := encode_spec i
  hlt

@[simp] theorem decode_encode (i : Instr) : decode (encode i) = .ok i :=
  have ⟨_, _, _, hdecode, _⟩ := encode_spec i
  hdecode

/-! ### The decoder -/

/-- The OP column of the opcode map names a command only by its own opcode (R92). -/
theorem eq_opcode_of_decodeOp {op : BitVec 4} {i : Instr} (h : decodeOp op = .ok i) : op = opcode i := by
  unfold decodeOp at h
  split at h <;> cases h <;> exact BitVec.eq_of_toNat_eq ‹_›

/-- A byte decodes to a command exactly when it is that command's byte (R95). -/
theorem decode_eq_ok_iff {v : Byte} {i : Instr} : decode v = .ok i ↔ v = encode i := by
  refine ⟨fun h => ?_, fun h => h ▸ decode_encode i⟩
  unfold decode at h
  split at h
  case isTrue hrsv =>
    calc v = rsvField v ++ opField v := (rsvField_append_opField v).symm
      _ = encode i := by rw [hrsv, eq_opcode_of_decodeOp h]; rfl
  case isFalse => cases h

/-- The bytes from 0x07 up are illegal, whichever field makes them so (R93). -/
theorem decode_illegal {v : Byte} (hv : 0x07 ≤ v.toNat) : ∃ e, decode v = .error e := by
  cases hd : decode v with
  | error e => exact ⟨e, rfl⟩
  | ok i =>
    have hlt : v.toNat < 7 := decode_eq_ok_iff.1 hd ▸ encode_toNat_lt i
    omega

/-- The rows of R92: command byte and command. -/
def opcodeMap : List (Nat × Instr) :=
  [(0x00, .nop), (0x01, .loadKey), (0x02, .encBegin), (0x03, .encBlock), (0x04, .decBegin), (0x05, .decBlock),
    (0x06, .endSession)]

/-- The encoder writes the opcode map's byte of each command, and the map has no other row (R92). -/
theorem mem_opcodeMap_iff {n : Nat} {i : Instr} : (n, i) ∈ opcodeMap ↔ n = (encode i).toNat := by
  cases i <;> simp [opcodeMap, encode, opcode]

/-- Settles O17: a row of the map and a decoded byte are both the byte that encodes the command. -/
theorem decoderIsOpcodeMap : Obligations.DecoderIsOpcodeMap :=
  ⟨fun _ _ => decode_eq_ok_iff.trans (BitVec.toNat_inj.symm.trans mem_opcodeMap_iff.symm), decode_encode⟩

end Sys2Proof

namespace Sys2Proof.Machine

/-- Settles O19: the byte is illegal, and which code it raises is TFAULT's choice (R94). -/
theorem illegalByteEndsWithBadOpcode : Obligations.IllegalByteEndsWithBadOpcode := by
  intro s hbusy hop
  obtain ⟨e, hd⟩ := decode_illegal hop
  rw [engineStep_illegal hbusy hd, State.illegalCommand_eq]
  exact ⟨fun ht => by rw [if_neg (Bool.eq_false_iff.1 ht)]; rfl, fun ht => by rw [if_pos ht]; rfl⟩

end Sys2Proof.Machine
end

section
/-! Transaction records (spec/30_encoding.md rule R96): the first byte of a record tells its kind and so its length, which is why
a stream can be read back record by record. -/

namespace Sys2Proof.Machine

theorem recordStream_cons (t : Transaction) (l : List Transaction) :
    recordStream (t :: l) = t.record ++ recordStream l := rfl

/-- A `W` record takes three bytes off the stream (R96). -/
theorem parseRecords_wr (a v : Byte) (bs : List Byte) :
    parseRecords (0x57 :: a :: v :: bs) = (parseRecords bs).map (Transaction.wr a v :: ·) := by
  simp [parseRecords]

/-- An `R` record takes two bytes off the stream, the last of it or not (R96). -/
theorem parseRecords_rd (a : Byte) (bs : List Byte) :
    parseRecords (0x52 :: a :: bs) = (parseRecords bs).map (Transaction.rd a :: ·) := by
  cases bs <;> simp [parseRecords]

/-- A record at the front of a stream is read as its transaction, and the rest is read on. -/
theorem parseRecords_record_append (t : Transaction) (bs : List Byte) :
    parseRecords (t.record ++ bs) = (parseRecords bs).map (t :: ·) := by
  cases t with
  | wr a v => exact parseRecords_wr a v bs
  | rd a => exact parseRecords_rd a bs

/-- Settles O56, by induction on the transactions, one record at a time. -/
theorem transactionRecordsReadBack : Obligations.TransactionRecordsReadBack := by
  intro l
  induction l with
  | nil => rfl
  | cons t l ih => rw [recordStream_cons, parseRecords_record_append, ih, Option.map_some]

end Sys2Proof.Machine
end

section
/-! The rotor machine (spec/40_rotor_machine.md rules R110-R120): the positions an advance leaves, the passes through the rotors
as inverses of each other, and `RotorEncrypt` byte by byte. -/

namespace Sys2Proof.Machine

/-! ### Advance -/

section
variable (c : Config) (m : RotorMachine)

theorem advanceMiddle_pos :
    (advanceMiddle c m).pos = #v[
      m.pos[0] + (if m.pos[1] = c.tables.rotorI.notch then 1 else 0),
      m.pos[1] + (if m.pos[1] = c.tables.rotorI.notch then 1 else 0),
      m.pos[2]] := by
  refine Vector.ext fun j hj => ?_
  by_cases hnotch : m.pos[1] = c.tables.rotorI.notch <;> interval_cases j <;> simp [advanceMiddle, hnotch]

theorem advanceRight_pos :
    (advanceRight c m).pos = #v[
      m.pos[0], m.pos[1] + (if m.pos[2] = c.tables.rotorI.notch then 1 else 0), m.pos[2]] := by
  refine Vector.ext fun j hj => ?_
  by_cases hnotch : m.pos[2] = c.tables.rotorI.notch <;> interval_cases j <;> simp [advanceRight, hnotch]

/-- Both notch checks read the positions before the advance (R111): step 1 does not write the position that step 2 reads. -/
theorem advance_pos :
    (advance c m).pos = #v[
      m.pos[0] + (if m.pos[1] = c.tables.rotorI.notch then 1 else 0),
      m.pos[1] + (if m.pos[1] = c.tables.rotorI.notch then 1 else 0) + (if m.pos[2] = c.tables.rotorI.notch then 1 else 0),
      m.pos[2] + 1] := by
  simp [advance, advanceRight_pos, advanceMiddle_pos]

/-- The right rotor moves in every advance (R111). -/
@[simp] theorem advance_pos_right : (advance c m).pos[2] = m.pos[2] + 1 := by
  simp [advance_pos]

/-- Settles O34, by the positions an advance leaves. -/
theorem advancePositions : Obligations.AdvancePositions := by
  intro c m n
  refine ⟨?_, ?_, advance_pos_right c m, advance_rotor c m, advance_ring c m, advance_plug c m⟩ <;>
    simp [advance_pos, n]

/-- Over k advances the right rotor rises by k mod 256 (R111(c)). -/
theorem iterate_advance_pos_right (k : Nat) : ((advance c)^[k] m).pos[2] = m.pos[2] + BitVec.ofNat 8 k := by
  induction k with
  | zero => simp
  | succ k ih =>
    rw [Function.iterate_succ_apply', advance_pos_right, ih, BitVec.ofNat_add, BitVec.add_assoc]
    rfl

/-- The plugboard's substitution is that of the machine before the advance. -/
@[simp] theorem plugSubst_advance (b : Byte) : plugSubst (advance c m) b = plugSubst m b := by
  simp [plugSubst]

end

/-! ### The passes through the rotors -/

/-- With a passed self-check FWD undoes the embedded inverse table: a left inverse on the bytes is a right inverse, there
being finitely many (R110). -/
theorem selfCheck_lookup_fwd {c : Config} (h : selfCheck c = true) :
    Function.RightInverse (lookup c.tables.rotorI.inv) (lookup c.tables.rotorI.fwd) :=
  have hleft : Function.LeftInverse (lookup c.tables.rotorI.inv) (lookup c.tables.rotorI.fwd) := selfCheck_lookup h
  hleft.rightInverse_of_surjective (Finite.surjective_of_injective hleft.injective)

section
variable {c : Config} (h : selfCheck c = true) (m : RotorMachine) (b : Byte) (i : Fin 3)
include h

/-- One rotor of the backward pass undoes the same rotor of the forward pass (R116). -/
theorem backwardRotor_forwardRotor : backwardRotor c m (forwardRotor c m b i) i = b := by
  simp [backwardRotor, forwardRotor, selfCheck_lookup h]

/-- One rotor of the forward pass undoes the same rotor of the backward pass (R116). -/
theorem forwardRotor_backwardRotor : forwardRotor c m (backwardRotor c m b i) i = b := by
  simp [backwardRotor, forwardRotor, selfCheck_lookup_fwd h _]

theorem backwardSubst_forwardSubst : backwardSubst c m (forwardSubst c m b) = b := by
  simp [backwardSubst, forwardSubst, backwardRotor_forwardRotor h]

theorem forwardSubst_backwardSubst : forwardSubst c m (backwardSubst c m b) = b := by
  simp [backwardSubst, forwardSubst, forwardRotor_backwardRotor h]

end

/-- Settles O35: the passes visit the rotors in opposite orders, and rotor by rotor they undo each other. -/
theorem backwardInvertsForward : Obligations.BackwardInvertsForward :=
  fun _ m b h => ⟨backwardSubst_forwardSubst h m b, forwardSubst_backwardSubst h m b⟩

/-! ### Two machines with the same positions and rings -/

/-- What the passes through the rotors depend on (R113, R114, R116). -/
structure RotorMachine.SameShifts (m m' : RotorMachine) : Prop where
  pos : m'.pos = m.pos
  ring : m'.ring = m.ring

section
variable {m m' : RotorMachine} (h : m.SameShifts m') (c : Config)
include h

theorem RotorMachine.SameShifts.shift_eq : shift m' = shift m := by
  funext i
  simp only [shift, h.pos, h.ring]

theorem RotorMachine.SameShifts.advance : (advance c m).SameShifts (advance c m') where
  pos := by rw [advance_pos, advance_pos, h.pos]
  ring := by rw [advance_ring, advance_ring, h.ring]

theorem RotorMachine.SameShifts.forwardSubst_eq : forwardSubst c m' = forwardSubst c m := by
  funext b
  simp [forwardSubst, forwardRotor, h.shift_eq]

theorem RotorMachine.SameShifts.backwardSubst_eq : backwardSubst c m' = backwardSubst c m := by
  funext b
  simp [backwardSubst, backwardRotor, h.shift_eq]

/-- At the same positions and rings, with the same symmetric plugboard, the second machine undoes every layer of the first,
from the outer one in: plugboard, backward pass, reflector, forward pass, plugboard (R117, R120). -/
theorem substitute_substitute (hcheck : selfCheck c = true) (hplug : ∀ x, plugSubst m' x = plugSubst m x)
    (hsym : ∀ x, plugSubst m (plugSubst m x) = x) (b : Byte) : substitute c m' (substitute c m b) = b := by
  simp only [substitute, hplug, h.forwardSubst_eq, h.backwardSubst_eq]
  rw [hsym, forwardSubst_backwardSubst hcheck, reflect_reflect, backwardSubst_forwardSubst hcheck, hsym]

end

/-- Settles O36: after the advance the machines still have the same positions and rings, and there they undo each other. -/
theorem encryptByteIsInvolution : Obligations.EncryptByteIsInvolution := by
  intro c m m' b hcheck hpos hring hplug hsym
  have hsame : (advance c m).SameShifts (advance c m') := RotorMachine.SameShifts.advance ⟨hpos, hring⟩ c
  exact substitute_substitute hsame c hcheck (by simpa using hplug) (by simpa using hsym) b

/-! ### RotorEncrypt -/

section
variable (c : Config) {n : Nat} (s : Vector Byte n)

/-- Every byte advances the machine once, whichever byte it is (R119). -/
theorem foldl_rotorEncryptAt_machine (l : List (Fin n)) (acc : RotorMachine × Vector Byte n) :
    (l.foldl (rotorEncryptAt c s) acc).1 = (advance c)^[l.length] acc.1 := by
  rw [← List.foldl_hom Prod.fst (g₂ := fun m _ => advance c m) fun _ _ => rfl, List.foldl_const]

/-- Encrypting other bytes leaves a byte of the result. -/
theorem foldl_rotorEncryptAt_get_of_notMem {l : List (Fin n)} {j : Fin n} (hj : j ∉ l)
    (acc : RotorMachine × Vector Byte n) : (l.foldl (rotorEncryptAt c s) acc).2[j] = acc.2[j] := by
  induction l generalizing acc with
  | nil => rfl
  | cons i l ih =>
    obtain ⟨hne, hl⟩ := not_or.1 (List.mem_cons.not.1 hj)
    rw [List.foldl_cons, ih hl, rotorEncryptAt_eq]
    exact Vector.getElem_set_ne i.isLt j.isLt fun e => hne (Fin.ext e.symm)

/-- The byte encrypted after k others is the substitution at the machine's positions after k + 1 advances, and no later byte
writes over it (R117, R119). -/
theorem foldl_rotorEncryptAt_get {l : List (Fin n)} (hl : l.Nodup) {k : Nat} (hk : k < l.length)
    (acc : RotorMachine × Vector Byte n) :
    (l.foldl (rotorEncryptAt c s) acc).2[l[k]] = substitute c ((advance c)^[k + 1] acc.1) s[l[k]] := by
  induction l generalizing acc k with
  | nil => exact absurd hk (Nat.not_lt_zero k)
  | cons i l ih =>
    obtain ⟨hi, hl⟩ := List.nodup_cons.1 hl
    cases k with
    | zero => exact (foldl_rotorEncryptAt_get_of_notMem c s hi _).trans (Vector.getElem_set_self i.isLt)
    | succ k => exact ih hl (Nat.lt_of_succ_lt_succ hk) _

theorem rotorEncrypt_machine (m : RotorMachine) : (rotorEncrypt c m s).1 = (advance c)^[n] m := by
  rw [rotorEncrypt, foldl_rotorEncryptAt_machine, List.length_finRange]

theorem rotorEncrypt_get (m : RotorMachine) {j : Nat} (hj : j < n) :
    (rotorEncrypt c m s).2[j] = substitute c ((advance c)^[j + 1] m) s[j] := by
  have hget := foldl_rotorEncryptAt_get c s (List.nodup_finRange n) (k := j) (by simpa using hj)
    (m, Vector.replicate n 0)
  simpa [rotorEncrypt] using hget

end

/-- Settles O37: the bytes are encrypted in the order of their indices, so j bytes and j advances come before byte j. -/
theorem rotorEncryptBytewise : Obligations.RotorEncryptBytewise := fun c n m s =>
  ⟨rotorEncrypt_machine c s m, fun _ hj => rotorEncrypt_get c s m hj, by
    rw [rotorEncrypt_machine, iterate_advance_pos_right]⟩

end Sys2Proof.Machine
end

section
/-! The key schedule (spec/41_key_schedule.md rules R140-R148): the machine parameters, the recurrence of the schedule step at
every index, the drift of built machines, and the block commands as the only ones that run it. -/

namespace Sys2Proof.Machine

/-! ### Machine parameters -/

/-- The shift as arithmetic: the high bits carried out are lost (R14). -/
theorem shl8_toNat (b : Byte) (n : Nat) : (shl8 b n).toNat = b.toNat * 2 ^ n % 256 := by
  rw [shl8, BitVec.toNat_shiftLeft, Nat.shiftLeft_eq]

/-- Byte `j` of the first three bytes of a shifted half (R141, R142). -/
theorem firstThree_shiftHalf_toNat (n : Nat) (h : Half) {j : Nat} (hj : j < 3) :
    (firstThree (shiftHalf n h))[j].toNat = h[j].toNat * 2 ^ n % 256 := by
  simp [firstThree, shiftHalf, shl8_toNat]

theorem machineParams_left {c : Config} (h : c.posSrc = .left) (i : Fin 16) (v : Block) :
    machineParams c i v = (firstThree (shiftedHalves c i v).1, firstThree (shiftedHalves c i v).2) := by
  rw [machineParams, h]

theorem machineParams_right {c : Config} (h : c.posSrc = .right) (i : Fin 16) (v : Block) :
    machineParams c i v = (firstThree (shiftedHalves c i v).2, firstThree (shiftedHalves c i v).1) := by
  rw [machineParams, h]

section
variable (c : Config) (i : Fin 16) (v : Block) {j : Nat} (hj : j < 3)

theorem firstThree_shiftedLeft_toNat :
    (firstThree (shiftedHalves c i v).1)[j].toNat = v[j].toNat * 2 ^ c.tables.shifts[i].toNat % 256 :=
  (firstThree_shiftHalf_toNat _ _ hj).trans (by rw [leftHalf_get]; rfl)

theorem firstThree_shiftedRight_toNat :
    (firstThree (shiftedHalves c i v).2)[j].toNat = v[8 + j].toNat * 2 ^ c.tables.shifts[i].toNat % 256 :=
  (firstThree_shiftHalf_toNat _ _ hj).trans (by rw [rightHalf_get]; rfl)

end

/-- Settles O38: each value of POS_SRC names the half of the positions and the half of the rings. -/
theorem machineParamsAreShiftedBytes : Obligations.MachineParamsAreShiftedBytes := by
  intro c i v j hj left right
  have hleft := firstThree_shiftedLeft_toNat c i v hj
  have hright := firstThree_shiftedRight_toNat c i v hj
  refine ⟨fun hsrc => ?_, fun hsrc => ?_, rfl⟩
  · rw [buildMachine, machineParams_left hsrc]
    exact ⟨hleft, hright⟩
  · rw [buildMachine, machineParams_right hsrc]
    exact ⟨hright, hleft⟩

/-! ### One index of a rotor file -/

/-- Machine and subkey `i`, in the order `RotorEncrypt` returns them. -/
def RotorFile.slot (f : RotorFile) (i : Fin 16) : RotorMachine × Block := (f.machines[i], f.sk[i])

theorem RotorFile.slot_eq_iff {f : RotorFile} {i : Fin 16} {p : RotorMachine × Block} :
    f.slot i = p ↔ f.machines[i] = p.1 ∧ f.sk[i] = p.2 := Prod.ext_iff

section
variable (f : RotorFile) {i j : Fin 16} (m : RotorMachine) (k : Block)

theorem RotorFile.slot_put_self : (f.put i m k).slot i = (m, k) := by
  rw [RotorFile.slot, RotorFile.put_machines_get, RotorFile.put_sk_get, if_pos rfl, if_pos rfl]

theorem RotorFile.slot_put_of_ne (h : i ≠ j) : (f.put i m k).slot j = f.slot j := by
  rw [RotorFile.slot, RotorFile.put_machines_get, RotorFile.put_sk_get, if_neg h, if_neg h, RotorFile.slot]

/-- The machine a later round runs is not the one an earlier round has written. -/
theorem roundMachine_put_of_ne (c : Config) (first : Bool) (v : Block) (h : i ≠ j) :
    roundMachine c first (f.put i m k) v j = roundMachine c first f v j := by
  rw [roundMachine, roundMachine, RotorFile.put_machines_get, if_neg h]

end

/-! ### The recurrence of the chain -/

section
variable (c : Config) (first : Bool)

/-- Rounds of other indices leave a slot. -/
theorem foldl_chainRound_slot_of_notMem {l : List (Fin 16)} {j : Fin 16} (hj : j ∉ l) (acc : RotorFile × Block) :
    (l.foldl (chainRound c first) acc).1.slot j = acc.1.slot j := by
  refine List.foldlRecOn (motive := fun r : RotorFile × Block => r.1.slot j = acc.1.slot j) l _ rfl fun r hr i hi => ?_
  rw [chainRound_eq, RotorFile.slot_put_of_ne _ _ _ (ne_of_mem_of_not_mem hi hj), hr]

/-- The current values of a run of rounds: the value the first one starts from, then the subkeys the rounds leave. -/
def chainValues (v : Block) (l : List (Fin 16)) (f : RotorFile) : List Block := v :: l.map fun i => f.sk[i]

theorem chainValues_length (v : Block) (l : List (Fin 16)) (f : RotorFile) : (chainValues v l f).length = l.length + 1 := by
  simp [chainValues]

/-- A round leaves in its slot what its machine makes of the current value, and no other round writes there (R145). -/
theorem foldl_chainRound_slot {l : List (Fin 16)} (hl : l.Nodup) (f r : RotorFile) (v : Block)
    (hr : (l.foldl (chainRound c first) (f, v)).1 = r) {k : Nat} (hk : k < l.length) :
    let w := (chainValues v l r)[k]'(by rw [chainValues_length]; omega)
    r.slot l[k] = rotorEncrypt c (roundMachine c first f w l[k]) w := by
  induction l generalizing f v k with
  | nil => exact absurd hk (Nat.not_lt_zero k)
  | cons i l ih =>
    obtain ⟨hi, hl⟩ := List.nodup_cons.1 hl
    rw [List.foldl_cons, chainRound_eq] at hr
    have hslot : r.slot i = rotorEncrypt c (roundMachine c first f v i) v := by
      rw [← hr, foldl_chainRound_slot_of_notMem c first hi, RotorFile.slot_put_self]
    cases k with
    | zero => exact hslot
    | succ k =>
      have hk' : k < l.length := Nat.lt_of_succ_lt_succ hk
      have hne : i ≠ l[k] := fun h => hi (h ▸ List.getElem_mem hk')
      have hlater := ih hl _ _ hr hk'
      rw [← congrArg Prod.snd hslot] at hlater
      simp only [roundMachine_put_of_ne _ _ _ c first _ hne] at hlater
      exact hlater

/-- The value round `i` starts from: KEY, or the subkey of the round before (R145, R146). -/
def chainInput (key : Block) (f : RotorFile) (i : Fin 16) : Block := if h : i.val = 0 then key else f.sk[i.val - 1]

/-- What the chain leaves at index `i` (R145). -/
theorem chainSchedule_slot (key : Block) (f : RotorFile) (i : Fin 16) :
    let r := chainSchedule c key first f
    let w := chainInput key r i
    r.slot i = rotorEncrypt c (roundMachine c first f w i) w := by
  intro r w
  have hslot := foldl_chainRound_slot c first (List.nodup_finRange 16) f r key rfl (k := i.val) (by simp)
  have hw : (chainValues key (List.finRange 16) r)[i.val]'(by rw [chainValues_length, List.length_finRange]; omega) = w := by
    obtain ⟨n, hn⟩ := i
    cases n <;> simp [chainValues, w, chainInput]
  rw [hw] at hslot
  simpa using hslot

end

/-! ### The refresh under SELF -/

theorem schedule_self {c : Config} (h : c.schedRefresh = .self) (key : Block) (first : Bool) (f : RotorFile) :
    schedule c key first f = selfSchedule c key first f := by rw [schedule, h]

section
variable (c : Config)

/-- The refresh of other indices leaves a slot. -/
theorem foldl_selfRound_slot_of_notMem {l : List (Fin 16)} {j : Fin 16} (hj : j ∉ l) (f : RotorFile) :
    (l.foldl (selfRound c) f).slot j = f.slot j := by
  refine List.foldlRecOn (motive := fun r : RotorFile => r.slot j = f.slot j) l _ rfl fun r hr i hi => ?_
  rw [selfRound_eq, RotorFile.slot_put_of_ne _ _ _ (ne_of_mem_of_not_mem hi hj), hr]

/-- The refresh puts a subkey once through its own machine (R145). -/
theorem foldl_selfRound_slot {l : List (Fin 16)} (hl : l.Nodup) {j : Fin 16} (hj : j ∈ l) (f : RotorFile) :
    (l.foldl (selfRound c) f).slot j = rotorEncrypt c (f.slot j).1 (f.slot j).2 := by
  induction l generalizing f with
  | nil => cases hj
  | cons i l ih =>
    obtain ⟨hi, hl⟩ := List.nodup_cons.1 hl
    rw [List.foldl_cons, selfRound_eq]
    rcases List.mem_cons.1 hj with rfl | hj
    · rw [foldl_selfRound_slot_of_notMem c hi, RotorFile.slot_put_self]; rfl
    · rw [ih hl hj, RotorFile.slot_put_of_ne _ _ _ (ne_of_mem_of_not_mem hj hi).symm]

/-- What the refresh leaves at index `i`, in the first block after the chain that builds the machines (R145). -/
theorem selfSchedule_slot (key : Block) (first : Bool) (f : RotorFile) (i : Fin 16) :
    let r := chainSchedule c key first f
    (selfSchedule c key first f).slot i =
      rotorEncrypt c (if first then r.machines[i] else f.machines[i]) (if first then r.sk[i] else f.sk[i]) := by
  cases first with
  | true => exact foldl_selfRound_slot c (List.nodup_finRange 16) (List.mem_finRange i) (chainSchedule c key true f)
  | false => exact foldl_selfRound_slot c (List.nodup_finRange 16) (List.mem_finRange i) f

end

/-! ### Drift -/

/-- Once the machines are built, a schedule step runs each of them over one value, under both switches (R148). -/
theorem schedule_machine_of_built (c : Config) (key : Block) (f : RotorFile) (i : Fin 16) :
    ∃ w : Block, (schedule c key false f).machines[i] = (rotorEncrypt c f.machines[i] w).1 := by
  cases hsched : c.schedRefresh with
  | chain =>
    rw [schedule_chain hsched]
    obtain ⟨hmachine, -⟩ := RotorFile.slot_eq_iff.1 (chainSchedule_slot c false key f i)
    exact ⟨_, hmachine⟩
  | self =>
    rw [schedule_self hsched]
    obtain ⟨hmachine, -⟩ := RotorFile.slot_eq_iff.1 (selfSchedule_slot c key false f i)
    exact ⟨_, hmachine⟩

theorem rotorEncrypt_pos_right (c : Config) {n : Nat} (m : RotorMachine) (s : Vector Byte n) :
    (rotorEncrypt c m s).1.pos[2] = m.pos[2] + BitVec.ofNat 8 n := by
  rw [rotorEncrypt_machine, iterate_advance_pos_right]

/-- Settles O40: a schedule step runs every built machine over sixteen bytes, and `RotorEncrypt` keeps all but positions. -/
theorem builtMachinesOnlyDrift : Obligations.BuiltMachinesOnlyDrift := by
  intro s i hbuilt
  obtain ⟨w, hw⟩ := schedule_machine_of_built s.cfg s.key s.rotorFile i
  rw [State.scheduleStep_machines, hbuilt, Bool.not_true, hw]
  exact ⟨rotorEncrypt_keeps (·.ring) _ (advance_ring _) _ w, rotorEncrypt_keeps (·.rotor) _ (advance_rotor _) _ w,
    rotorEncrypt_plug _ _ w, rotorEncrypt_pos_right _ _ w⟩

/-! ### The block commands -/

theorem ErrCode.code_eq_zero_iff (e : ErrCode) : e.code = 0 ↔ e = .ok := by cases e <;> decide

section
variable {s t : State}

/-- ENC_BLOCK in its own session succeeds (R206). -/
theorem exec_encBlock (ht : s.tfault = false) (hm : s.mode = .enc) : exec .encBlock s = .next s.encryptBlock.complete := by
  simp [exec, execEncBlock, ht, hm]

/-- DEC_BLOCK in its own session succeeds (R209). -/
theorem exec_decBlock (ht : s.tfault = false) (hm : s.mode = .dec) : exec .decBlock s = .next s.decryptBlock.complete := by
  simp [exec, execDecBlock, ht, hm]

/-- Both block commands leave M, SK and BUILT as the one schedule step does (R147). -/
theorem encryptBlock_complete_inst (s : State) : s.encryptBlock.complete.inst = s.scheduleStep.inst := by
  simp [State.inst, State.rotorFile, State.encryptBlock]

theorem decryptBlock_complete_inst (s : State) : s.decryptBlock.complete.inst = s.scheduleStep.inst := by
  simp [State.inst, State.rotorFile, State.decryptBlock]

/-- A schedule step is a function of the configuration, KEY, M, SK and BUILT (R145). -/
theorem scheduleStep_inst (s : State) : s.scheduleStep.inst = s.inst.tick s.cfg s.key := rfl

/-- A block command that ends with ERR = 0 has run the schedule step once (R145). -/
theorem Effect.block_inst {i : Instr} (h : Effect s i t) (hi : i = .encBlock ∨ i = .decBlock) (herr : t.err = 0) :
    t.inst = s.scheduleStep.inst := by
  cases h with
  | rejected _ e he => exact absurd (e.code_eq_zero_iff.1 herr) he
  | encBlock => exact encryptBlock_complete_inst s
  | decBlock => exact decryptBlock_complete_inst s
  | _ => simp at hi

theorem machines_sk_built_of_inst_eq (h : t.inst = s.inst) : t.machines = s.machines ∧ t.sk = s.sk ∧ t.built = s.built := by
  simpa [State.inst, State.rotorFile, and_assoc] using h

/-- Settles O39: the chain index by index, then the two switches, the write set, and the commands that run the step. -/
theorem scheduleStepRecurrence : Obligations.ScheduleStepRecurrence := by
  intro s first f
  refine ⟨fun i => ?_, rfl, fun hchain => ?_, fun hself i => ?_, rfl, fun j t hj hexec herr => ?_⟩
  · exact RotorFile.slot_eq_iff.1 (chainSchedule_slot s.cfg first s.key s.rotorFile i)
  · have hf : schedule s.cfg s.key first s.rotorFile = f := schedule_chain hchain _ _ _
    exact ⟨congrArg RotorFile.machines hf, congrArg RotorFile.sk hf⟩
  · have hslot := selfSchedule_slot s.cfg s.key first s.rotorFile i
    rw [← schedule_self hself] at hslot
    exact RotorFile.slot_eq_iff.1 hslot
  · exact machines_sk_built_of_inst_eq ((exec_cases hexec).block_inst hj herr)

/-- Settles O42: both commands leave one tick of the same M, SK and BUILT, and no data enters a tick. -/
theorem scheduleIndependentOfDataAndDirection : Obligations.ScheduleIndependentOfDataAndDirection := by
  intro s s' t t' hcfg hkey hbuilt hmachines hsk htf htf' hm hm' ht ht'
  have hinst : s.inst = s'.inst := by simp [State.inst, State.rotorFile, hbuilt, hmachines, hsk]
  obtain rfl := Host.Outcome.next.inj ((exec_encBlock htf hm).symm.trans ht)
  obtain rfl := Host.Outcome.next.inj ((exec_decBlock htf' hm').symm.trans ht')
  have heq : s.encryptBlock.complete.inst = s'.decryptBlock.complete.inst := by
    calc s.encryptBlock.complete.inst
      _ = s.inst.tick s.cfg s.key := by rw [encryptBlock_complete_inst, scheduleStep_inst]
      _ = s'.inst.tick s'.cfg s'.key := by rw [hinst, hcfg, hkey]
      _ = s'.decryptBlock.complete.inst := by rw [decryptBlock_complete_inst, scheduleStep_inst]
  obtain ⟨hmachines', hsk', -⟩ := machines_sk_built_of_inst_eq heq
  exact ⟨hmachines', hsk', congrArg Instance.built (encryptBlock_complete_inst s),
    congrArg Instance.built (decryptBlock_complete_inst s')⟩

/-- Among the effects of commands that leave BUILT = 1, the block commands' alone move a machine (R148). -/
theorem Effect.of_machines_ne {i : Instr} (h : Effect s i t) (hbuilt : t.built = true) (hne : t.machines ≠ s.machines) :
    t.err = 0 ∧ (i = .encBlock ∧ s.mode = .enc ∨ i = .decBlock ∧ s.mode = .dec) := by
  cases h with
  | encBlock _ hm => exact ⟨rfl, .inl ⟨rfl, hm⟩⟩
  | decBlock _ hm => exact ⟨rfl, .inr ⟨rfl, hm⟩⟩
  | _ => exact absurd rfl hne

theorem engineStep_of_machines_ne (h : engineStep s = .next t) (hbuilt : t.built = true) (hne : t.machines ≠ s.machines) :
    s.busy = true ∧ t.err = 0 ∧ (s.pend.op = 0x03 ∧ s.mode = .enc ∨ s.pend.op = 0x05 ∧ s.mode = .dec) := by
  rcases engineStep_next_cases h with ⟨-, rfl⟩ | ⟨i, hb, hd, he⟩ | ⟨e, -, -, rfl⟩
  · exact absurd rfl hne
  · obtain ⟨herr, hi⟩ := he.of_machines_ne hbuilt hne
    refine ⟨hb, herr, hi.imp ?_ ?_⟩ <;>
    · rintro ⟨rfl, hm⟩
      exact ⟨decode_eq_ok_iff.1 hd, hm⟩
  · rw [State.illegalCommand_eq] at hne
    exact absurd rfl hne

end

/-- Settles O33: of the events of a step only the engine's turn moves a machine and leaves BUILT = 1. -/
theorem onlyBlockCommandsMoveMachines : Obligations.OnlyBlockCommandsMoveMachines := by
  intro s t h hbuilt hne
  rcases step_next_cases h with ⟨-, he⟩ | ⟨a, -, rfl⟩ | ⟨a, v, -, rfl⟩ | ⟨-, rfl⟩
  · exact engineStep_of_machines_ne (s := s.withPending s.host.pending.tail) he hbuilt hne
  · exact absurd rfl hne
  · obtain ⟨-, -, -, hmachines, -⟩ := State.regWrite_frame (s.withPending s.host.pending.tail) a v
    exact absurd hmachines hne
  · cases hbuilt

end Sys2Proof.Machine
end

section
/-! The round function (spec/42_round_function.md rules R160, R162): the expansion bit by bit, and the S-box layer by the row
and the column of each byte pair. -/

namespace Sys2Proof.Machine

/-! ### The expansion -/

/-- Byte k of the expanded value collects the bits that EXP selects for it (R160). -/
theorem expand_get (c : Config) (h : Half) {k : Nat} (hk : k < 16) :
    (expand c h)[k] = byteOfBits fun b : Fin 8 => bitString h (expIndex c ⟨8 * k + b.val, by omega⟩) := by
  simp [expand]

/-- Bit i stands in byte i / 8, at the place of the bit string of index 8 * (i / 8) + i % 8, which is i (R15, R160). -/
theorem bitString_expand (c : Config) (h : Half) (i : Fin 128) :
    bitString (expand c h) i = bitString h (expIndex c i) := by
  have hmod : i.val % 8 < 8 := Nat.mod_lt _ (by decide)
  have hindex : (⟨8 * (i.val / 8) + i.val % 8, by omega⟩ : Fin 128) = i := Fin.ext (Nat.div_add_mod _ _)
  rw [bitString, expand_get, byteOfBits_bit _ ⟨i.val % 8, hmod⟩, hindex]

/-- Settles O43: both sides are bits of bit strings. -/
theorem expandCopiesSelectedBits : Obligations.ExpandCopiesSelectedBits := bitString_expand

/-! ### The S-box layer -/

theorem sboxLayer_get (c : Config) (x : Block) {k : Nat} (hk : k < 8) :
    (sboxLayer c x)[k] = c.tables.sbox[k][sboxRow x[2 * k] x[2 * k + 1]][sboxColumn x[2 * k]] := by
  simp [sboxLayer]

/-- Row 0 is the row of equal top bits. -/
theorem sboxRow_eq (a b : Byte) : sboxRow a b = if a.getLsbD 7 = b.getLsbD 7 then 0 else 1 := by
  rw [sboxRow]
  cases a.getLsbD 7 <;> cases b.getLsbD 7 <;> rfl

theorem sboxColumn_val (b : Byte) : (sboxColumn b).val = b.toNat % 16 := BitVec.extractLsb'_toNat 0 4 b

/-- Bytes that agree under a mask agree in the bits the mask holds. -/
theorem getLsbD_eq_of_and_eq {a b m : Byte} (h : a &&& m = b &&& m) {j : Nat} (hj : m.getLsbD j = true) :
    a.getLsbD j = b.getLsbD j := by
  have hbit := congrArg (·.getLsbD j) h
  simpa [hj] using hbit

/-- The row depends on the two top bits alone (R162). -/
theorem sboxRow_congr {a a' b b' : Byte} (ha : a &&& 0x8F = a' &&& 0x8F) (hb : b &&& 0x80 = b' &&& 0x80) :
    sboxRow a b = sboxRow a' b' := by
  rw [sboxRow, sboxRow, getLsbD_eq_of_and_eq ha rfl, getLsbD_eq_of_and_eq hb rfl]

/-- The column is the byte's value mod 16, so no bit above bit 3 enters it (R162). -/
theorem sboxColumn_congr {a b : Byte} (h : a &&& 0x8F = b &&& 0x8F) : sboxColumn a = sboxColumn b := by
  have hmask : ∀ j < 4, (0x8F : Byte).getLsbD j = true := by decide
  refine congrArg BitVec.toFin (BitVec.eq_of_getLsbD_eq fun j hj => ?_)
  simp [hj, getLsbD_eq_of_and_eq h (hmask j hj)]

/-- Settles O44: each output byte by its row and column, which the bits that never matter do not enter. -/
theorem sBoxLayerLookup : Obligations.SBoxLayerLookup := by
  refine ⟨fun c x k hk => ?_, fun c x y hxy => Vector.ext fun k hk => ?_⟩
  · simp only [sboxLayer_get c x hk, sboxRow_eq, Fin.getElem_fin, sboxColumn_val]
  · obtain ⟨heven, hodd⟩ := hxy k hk
    simp only [sboxLayer_get c _ hk, sboxRow_congr heven hodd, sboxColumn_congr heven]

end Sys2Proof.Machine
end

section
/-! The Feistel engine (spec/43_feistel.md rules R180-R184): a block as its pair of halves, the halves between the rounds of
each direction, and the inversion of a run of rounds by the rounds that undo them. -/

namespace Sys2Proof.Machine

/-! ### A block as its pair of halves -/

/-- A block is its two halves, and any two halves make a block (R180, R182). -/
def halves : Block ≃ Half × Half where
  toFun b := (leftHalf b, rightHalf b)
  invFun lr := joinHalves lr.1 lr.2
  left_inv := joinHalves_halves
  right_inv lr := Prod.ext (leftHalf_joinHalves lr.1 lr.2) (rightHalf_joinHalves lr.1 lr.2)

theorem halves_eq (b : Block) : halves b = (leftHalf b, rightHalf b) := rfl

theorem halves_get (b : Block) {j : Nat} (hj : j < 8) : (halves b).1[j] = b[j] ∧ (halves b).2[j] = b[8 + j] :=
  ⟨leftHalf_get b j hj, rightHalf_get b j hj⟩

section
variable (c : Config) (b : Block) (sk : Vector Block 16)

/-- The encrypt rounds are a run on the halves, with no swap after it (R181, R182). -/
theorem halves_feistelEnc : halves (feistelEnc c b sk) = (List.finRange 16).foldl (encRound c sk) (halves b) := by
  rw [feistelEnc, halves_eq b]
  generalize (List.finRange 16).foldl _ _ = lr
  exact halves.apply_symm_apply lr

/-- The decrypt rounds are a run on the halves in the opposite order (R183). -/
theorem halves_feistelDec : halves (feistelDec c b sk) = (List.finRange 16).reverse.foldl (decRound c sk) (halves b) := by
  rw [feistelDec, halves_eq b]
  generalize (List.finRange 16).reverse.foldl _ _ = lr
  exact halves.apply_symm_apply lr

end

/-! ### The halves between the rounds -/

section
variable {α β : Type} (f : β → α → β) (x : β) {l : List α} {i : Nat} (h : i < l.length)

theorem foldl_take_succ : (l.take (i + 1)).foldl f x = f ((l.take i).foldl f x) l[i] := by
  rw [← List.take_concat_get' l i h, List.foldl_append, List.foldl_cons, List.foldl_nil]

theorem foldl_reverse_drop : (l.drop i).reverse.foldl f x = f ((l.drop (i + 1)).reverse.foldl f x) l[i] := by
  rw [List.drop_eq_getElem_cons h, List.reverse_cons, List.foldl_append, List.foldl_cons, List.foldl_nil]

end

section
variable (c : Config) (b : Block) (sk : Vector Block 16)

/-- L_i and R_i of encryption: the halves after rounds 0 to i - 1 (R181). -/
def encHalves (i : Nat) : Half × Half := ((List.finRange 16).take i).foldl (encRound c sk) (halves b)

/-- L_i and R_i of decryption: the halves after rounds 15 down to i (R183). -/
def decHalves (i : Nat) : Half × Half := ((List.finRange 16).drop i).reverse.foldl (decRound c sk) (halves b)

theorem encHalves_zero : encHalves c b sk 0 = halves b := rfl

theorem encHalves_last : encHalves c b sk 16 = halves (feistelEnc c b sk) := by
  rw [halves_feistelEnc]; rfl

theorem decHalves_last : decHalves c b sk 16 = halves b := rfl

theorem decHalves_zero : decHalves c b sk 0 = halves (feistelDec c b sk) := by
  rw [halves_feistelDec]; rfl

variable {i : Nat} (hi : i < 16)

theorem encHalves_succ : encHalves c b sk (i + 1) = encRound c sk (encHalves c b sk i) ⟨i, hi⟩ := by
  rw [encHalves, foldl_take_succ _ _ (by simpa using hi), List.getElem_finRange]; rfl

theorem decHalves_eq_decRound : decHalves c b sk i = decRound c sk (decHalves c b sk (i + 1)) ⟨i, hi⟩ := by
  rw [decHalves, foldl_reverse_drop _ _ (by simpa using hi), List.getElem_finRange]; rfl

end

/-- Settles O45: the halves between the encrypt rounds, from those of the block to those of the result. -/
theorem feistelEncRounds : Obligations.FeistelEncRounds := by
  intro c b sk
  refine ⟨fun i => (encHalves c b sk i).1, fun i => (encHalves c b sk i).2, fun j hj => ?_, fun i hi => ?_, fun j hj => ?_⟩
  · simp only [encHalves_zero]
    exact halves_get b hj
  · simp only [encHalves_succ c b sk hi]
    exact ⟨rfl, rfl⟩
  · simp only [encHalves_last]
    exact (halves_get _ hj).imp Eq.symm Eq.symm

/-- Settles O46: the halves between the decrypt rounds, numbered by the rounds still to run. -/
theorem feistelDecRounds : Obligations.FeistelDecRounds := by
  intro c b sk
  refine ⟨fun i => (decHalves c b sk i).1, fun i => (decHalves c b sk i).2, fun j hj => ?_, fun i hi => ?_, fun j hj => ?_⟩
  · simp only [decHalves_last]
    exact halves_get b hj
  · simp only [decHalves_eq_decRound c b sk hi]
    exact ⟨rfl, rfl⟩
  · simp only [decHalves_zero]
    exact (halves_get _ hj).imp Eq.symm Eq.symm

/-! ### The two directions -/

/-- Settles O47: each round undoes the same round of the other direction, and the two directions run them in opposite orders. -/
theorem feistelDirectionsInvert : Obligations.FeistelDirectionsInvert := by
  intro c b sk
  refine ⟨halves.injective ?_, halves.injective ?_⟩
  · rw [halves_feistelDec, halves_feistelEnc]
    exact foldl_reverse_cancel _ _ (decRound_encRound c sk) _ _
  · have hcancel := foldl_reverse_cancel _ _ (encRound_decRound c sk) (List.finRange 16).reverse (halves b)
    rw [List.reverse_reverse] at hcancel
    rw [halves_feistelEnc, halves_feistelDec, hcancel]

end Sys2Proof.Machine
end

section
/-! The commands (spec/44_commands.md rules R202-R212), by the checks they share in the order of R246: TABLE_FAULT stops every
command, SEQUENCE those that need a mode, NO_KEY the two that open a session. What is left of each command is its length check
and its effect. -/

namespace Sys2Proof.Machine

section
variable {s : State}

/-! ### The checks -/

/-- The mode in which a command is accepted, where it is not accepted in all (R203-R210). -/
def requiredMode : Instr → Option Mode
  | .loadKey | .encBegin | .decBegin => some .idle
  | .encBlock => some .enc
  | .decBlock => some .dec
  | .nop | .endSession => none

/-- TABLE_FAULT is the first check of every command (R246). -/
theorem exec_of_tfault (ht : s.tfault = true) (i : Instr) : exec i s = .next (s.raiseError .tableFault) := by
  cases i <;> exact congrArg Host.Outcome.next (if_pos ht)

/-- SEQUENCE is the second check of a command that needs a mode (R205, R246). -/
theorem exec_of_mode_ne {i : Instr} {m : Mode} (hi : requiredMode i = some m) (ht : s.tfault = false) (hm : s.mode ≠ m) :
    exec i s = .next (s.raiseError .sequence) := by
  have ht' : ¬ s.tfault = true := Bool.eq_false_iff.1 ht
  cases i with
  | nop | endSession => cases hi
  | _ =>
    obtain rfl := Option.some.inj hi
    exact congrArg Host.Outcome.next ((if_neg ht').trans (if_pos hm))

/-- NO_KEY is the third check of the commands that open a session (R204, R207). -/
theorem exec_of_no_key {i : Instr} (hi : i = .encBegin ∨ i = .decBegin) (ht : s.tfault = false) (hm : s.mode = .idle)
    (hk : s.keyv = false) : exec i s = .next (s.raiseError .noKey) := by
  rcases hi with rfl | rfl
  · simp [exec, execEncBegin, ht, hm, hk]
  · simp [exec, execDecBegin, ht, hm, hk]

/-! ### The commands past their shared checks -/

theorem exec_nop (ht : s.tfault = false) : exec .nop s = .next s.complete := by
  simp [exec, execNop, ht]

theorem exec_endSession (ht : s.tfault = false) : exec .endSession s = .next s.endSession.complete := by
  simp [exec, execEnd, ht]

/-- A key has exactly 16 bytes (R203). -/
theorem exec_loadKey (ht : s.tfault = false) (hm : s.mode = .idle) :
    exec .loadKey s =
      .next (if s.pend.keylen ≠ 16 then s.raiseError .invalidKeyLength else s.loadKey.complete) :=
  congrArg Host.Outcome.next ((if_neg (Bool.eq_false_iff.1 ht)).trans (if_neg (not_not_intro hm)))

/-- An encrypt session takes any length, and opens unless it is 0 (R204, R212). -/
theorem exec_encBegin (ht : s.tfault = false) (hm : s.mode = .idle) (hk : s.keyv = true) :
    exec .encBegin s =
      .next (if s.pend.len = 0 then s.complete else (s.beginSession .enc s.pend.len).complete) :=
  congrArg Host.Outcome.next
    ((if_neg (Bool.eq_false_iff.1 ht)).trans ((if_neg (not_not_intro hm)).trans (if_neg (by simp [hk]))))

/-- A decrypt session takes only whole blocks, and opens unless there is none (R207, R208, R212). -/
theorem exec_decBegin (ht : s.tfault = false) (hm : s.mode = .idle) (hk : s.keyv = true) :
    exec .decBegin s =
      .next (if s.pend.len.toNat % 16 ≠ 0 then s.raiseError .invalidInputLength
        else if s.pend.len = 0 then s.complete else (s.beginSession .dec s.pend.len).complete) :=
  congrArg Host.Outcome.next
    ((if_neg (Bool.eq_false_iff.1 ht)).trans ((if_neg (not_not_intro hm)).trans (if_neg (by simp [hk]))))

/-! ### The end of a block -/

/-- With at least `n` bytes left REMAIN falls by `n` as a number, without wrapping (R206, R209). -/
theorem sub_ofNat_eq_ofNat_sub {w : Word32} {n : Nat} (hn : n ≤ w.toNat) :
    w - BitVec.ofNat 32 n = BitVec.ofNat 32 (w.toNat - n) := by
  rw [← BitVec.ofNat_sub_ofNat_of_le _ _ (by have := w.isLt; omega) hn, BitVec.ofNat_toNat, BitVec.setWidth_eq]

theorem ofNat_sub_eq_zero_iff {w : Word32} {n : Nat} (hn : n ≤ w.toNat) :
    BitVec.ofNat 32 (w.toNat - n) = 0 ↔ w.toNat = n := by
  have hw := w.isLt
  rw [← BitVec.toNat_inj, BitVec.toNat_ofNat]
  change _ % 2 ^ 32 = 0 ↔ _
  omega

/-- A block of `n` of the bytes left: the session ends with its last byte (R206, R209, R211). -/
theorem State.finishBlock_of_le {n : Nat} (hn : n ≤ s.remain.toNat) (out prev : Block) :
    s.finishBlock out prev n =
      { s with
        blkOut := out
        prev := if s.remain.toNat = n then zeroBlock else prev
        remain := BitVec.ofNat 32 (s.remain.toNat - n)
        mode := if s.remain.toNat = n then .idle else s.mode } := by
  rw [State.finishBlock_eq, sub_ofNat_eq_ofNat_sub hn]
  by_cases hlast : s.remain.toNat = n
  · simp [hlast]
  · simp only [ofNat_sub_eq_zero_iff hn, hlast, if_false]

/-- An encrypt block takes the last bytes exactly when 16 or fewer are left (R206). -/
theorem State.remain_eq_plainBytes_iff : s.remain.toNat = s.plainBytes ↔ s.remain.toNat ≤ 16 := by
  rw [State.plainBytes]
  omega

end

/-! ### The command statements -/

/-- Settles O24: the schedule step, then the end of a block of at most 16 of the bytes left. -/
theorem encBlockEncryptsOneBlock : Obligations.EncBlockEncryptsOneBlock := by
  refine fun s => ⟨decode_encode .encBlock, fun ht hm => ⟨_, exec_encBlock ht hm, ?_⟩,
    fun ht => exec_of_tfault ht _, fun ht hm => exec_of_mode_ne rfl ht hm⟩
  have hn : s.plainBytes ≤ s.scheduleStep.remain.toNat := Nat.min_le_right _ _
  rw [State.encryptBlock, State.finishBlock_of_le hn]
  simp only [State.scheduleStep_remain, State.scheduleStep_mode, State.remain_eq_plainBytes_iff, hm]
  rfl

/-- Settles O26: the schedule step, then the end of a block of 16 of the bytes left. -/
theorem decBlockDecryptsOneBlock : Obligations.DecBlockDecryptsOneBlock := by
  refine fun s => ⟨decode_encode .decBlock, fun ht hm hr => ⟨_, exec_decBlock ht hm, ?_⟩,
    fun ht => exec_of_tfault ht _, fun ht hm => exec_of_mode_ne rfl ht hm⟩
  have hn : 16 ≤ s.scheduleStep.remain.toNat := hr
  rw [State.decryptBlock, State.finishBlock_of_le hn]
  simp only [State.scheduleStep_remain, State.scheduleStep_mode, hm]
  rfl

/-- Settles O21: NOP has no check but TABLE_FAULT. -/
theorem nopClearsErr : Obligations.NopClearsErr :=
  fun _ => ⟨decode_encode .nop, exec_nop, fun ht => exec_of_tfault ht _⟩

/-- Settles O22: M and SK stay as they are, of which the statement says nothing. -/
theorem loadKeyMakesFreshInstance : Obligations.LoadKeyMakesFreshInstance := by
  refine fun s => ⟨decode_encode .loadKey, fun ht hm hk => ⟨s.loadKey.complete, ?_, rfl⟩,
    fun ht => exec_of_tfault ht _, fun ht hm => exec_of_mode_ne rfl ht hm, fun ht hm hk => ?_⟩
  · rw [exec_loadKey ht hm, if_neg (not_not_intro hk)]
  · rw [exec_loadKey ht hm, if_pos hk]; rfl

/-- Settles O23, by the checks and then by the length. -/
theorem encBeginOpensSession : Obligations.EncBeginOpensSession := by
  refine fun s => ⟨decode_encode .encBegin, fun ht hm hk hl => ?_, fun ht hm hk hl => ?_,
    fun ht => exec_of_tfault ht _, fun ht hm => exec_of_mode_ne rfl ht hm, exec_of_no_key (.inl rfl)⟩
  · rw [exec_encBegin ht hm hk, if_neg hl]; rfl
  · rw [exec_encBegin ht hm hk, if_pos hl]; rfl

/-- Settles O25, by the checks and then by the length, of which 0 is a multiple of 16. -/
theorem decBeginOpensSession : Obligations.DecBeginOpensSession := by
  refine fun s => ⟨decode_encode .decBegin, fun ht hm hk ha hl => ?_, fun ht hm hk hl => ?_,
    fun ht => exec_of_tfault ht _, fun ht hm => exec_of_mode_ne rfl ht hm, exec_of_no_key (.inr rfl),
    fun ht hm hk ha => ?_⟩
  · rw [exec_decBegin ht hm hk, if_neg (not_not_intro ha), if_neg hl]; rfl
  · have ha : s.pend.len.toNat % 16 = 0 := by rw [hl]; rfl
    rw [exec_decBegin ht hm hk, if_neg (not_not_intro ha), if_pos hl]; rfl
  · rw [exec_decBegin ht hm hk, if_pos ha]; rfl

/-- Settles O27: END has no check but TABLE_FAULT, so it is accepted in every mode. -/
theorem endAbandonsSession : Obligations.EndAbandonsSession :=
  fun _ => ⟨decode_encode .endSession, exec_endSession, fun ht => exec_of_tfault ht _⟩

/-- Settles O30: the three commands need MODE = IDLE. -/
theorem sessionExclusivity : Obligations.SessionExclusivity := by
  intro s i hi ht hm
  have hidle : requiredMode i = some .idle := by
    simp only [List.mem_cons, List.not_mem_nil, or_false] at hi
    rcases hi with rfl | rfl | rfl <;> rfl
  exact exec_of_mode_ne hidle ht hm

end Sys2Proof.Machine
end

section
/-! Errors (spec/60_exceptions.md): a rejected command changes ERR and BUSY alone (R243), TABLE_FAULT refuses every byte and only
a reset lifts it (R242), the code of a command is that of the first check that fails (R246), and no read shows a secret
(R251). -/

namespace Sys2Proof.Machine

/-! ### Rejections -/

section
variable {s t : State} {i : Instr}

/-- Every effect but a rejection ends in `State.complete`, which writes ERR = 0 (R200, R243). -/
theorem Effect.eq_raiseError (h : Effect s i t) (herr : t.err ≠ 0) : ∃ e, t = s.raiseError e := by
  cases h with
  | rejected _ e => exact ⟨e, rfl⟩
  | _ => exact absurd (State.complete_err _) herr

/-! ### TABLE_FAULT -/

/-- TABLE_FAULT is the first check of every latched byte, legal or illegal (R94, R242). -/
theorem engineStep_of_tfault (hb : s.busy = true) (ht : s.tfault = true) :
    engineStep s = .next (s.raiseError .tableFault) := by
  cases hd : decode s.pend.op with
  | ok i => rw [engineStep_ok hb hd, exec_of_tfault ht]
  | error e => rw [engineStep_illegal hb hd, State.illegalCommand_eq, if_pos ht]

theorem Effect.tfault_eq (h : Effect s i t) : t.tfault = s.tfault := by
  cases h <;> simp [State.encryptBlock, State.decryptBlock]

theorem engineStep_tfault (h : engineStep s = .next t) : t.tfault = s.tfault := by
  rcases engineStep_next_cases h with ⟨-, rfl⟩ | ⟨i, -, -, he⟩ | ⟨e, -, -, rfl⟩
  · rfl
  · exact he.tfault_eq
  · rw [State.illegalCommand_eq, State.raiseError_tfault]

/-- Every step but a reset keeps TFAULT (R33, R242). -/
theorem step_tfault (h : step s = .next t) : t.tfault = s.tfault ∨ s.host.pending.head? = some .reset := by
  rcases step_next_cases h with ⟨-, he⟩ | ⟨a, -, rfl⟩ | ⟨a, v, -, rfl⟩ | ⟨hp, -⟩
  · exact .inl (engineStep_tfault he :)
  · exact .inl rfl
  · obtain ⟨-, -, -, -, -, -, -, -, -, htfault, -⟩ := State.regWrite_frame (s.withPending s.host.pending.tail) a v
    exact .inl htfault
  · exact .inr hp

/-! ### The order of the checks

The checks of R246 speak of the latched byte; those of a command, of the instruction that the byte encodes. -/

/-- The bytes below 0x07 are those of the commands (R92). -/
theorem exists_eq_encode {v : Byte} (hv : v.toNat < 0x07) : ∃ i, v = encode i := by
  have hrows : ∀ n < 7, ∃ row ∈ opcodeMap, row.1 = n := by decide
  obtain ⟨⟨n, i⟩, hrow, rfl : n = v.toNat⟩ := hrows _ hv
  exact ⟨i, BitVec.toNat_inj.1 (mem_opcodeMap_iff.1 hrow)⟩

/-- The bytes in the SEQUENCE clause of R246 are those of the commands that require the mode it names. -/
theorem sequence_check_iff :
    (encode i ∈ [0x01, 0x02, 0x04] ∧ s.mode ≠ .idle) ∨ (encode i = 0x03 ∧ s.mode ≠ .enc) ∨
        (encode i = 0x05 ∧ s.mode ≠ .dec) ↔ ∃ m, requiredMode i = some m ∧ s.mode ≠ m := by
  cases i <;> simp [encode, opcode, requiredMode]

/-- The bytes in the NO_KEY clause of R246 are those of the commands that open a session. -/
theorem encode_mem_begins_iff : encode i ∈ [0x02, 0x04] ↔ i = .encBegin ∨ i = .decBegin := by
  cases i <;> simp [encode, opcode]

theorem encode_injective : Function.Injective encode := fun i j h => by
  have hd : decode (encode i) = decode (encode j) := congrArg decode h
  rw [decode_encode, decode_encode] at hd
  exact Except.ok.inj hd

theorem encode_eq_loadKey_iff : encode i = 0x01 ↔ i = .loadKey := encode_injective.eq_iff' rfl

theorem encode_eq_decBegin_iff : encode i = 0x04 ↔ i = .decBegin := encode_injective.eq_iff' rfl

/-- An outcome has one next state, and so one code. -/
theorem err_of_next {o : Host.Outcome State Fault Refusal} {u : State} (ht : o = .next t) (hu : o = .next u) :
    t.err = u.err := by
  cases ht.symm.trans hu; rfl

/-- A command all of whose checks pass ends with ERR = 0 (R200). -/
theorem exec_err_of_checks (h : exec i s = .next t) (ht : s.tfault = false)
    (hmode : ∀ m, requiredMode i = some m → s.mode = m) (hkey : i = .encBegin ∨ i = .decBegin → s.keyv = true)
    (hkeylen : i = .loadKey → s.pend.keylen = 16) (hlen : i = .decBegin → s.pend.len.toNat % 16 = 0) : t.err = 0 := by
  cases i with
  | nop => exact err_of_next h (exec_nop ht)
  | endSession => exact err_of_next h (exec_endSession ht)
  | encBlock => exact err_of_next h (exec_encBlock ht (hmode _ rfl))
  | decBlock => exact err_of_next h (exec_decBlock ht (hmode _ rfl))
  | loadKey =>
    rw [exec_loadKey ht (hmode _ rfl), if_neg (not_not_intro (hkeylen rfl))] at h
    exact err_of_next h rfl
  | encBegin =>
    rw [exec_encBegin ht (hmode _ rfl) (hkey (.inl rfl))] at h
    split at h <;> cases h <;> rfl
  | decBegin =>
    rw [exec_decBegin ht (hmode _ rfl) (hkey (.inr rfl)), if_neg (not_not_intro (hlen rfl))] at h
    split at h <;> cases h <;> rfl

end

/-! ### The error statements -/

/-- Settles O20: the check that comes first for every byte, then the steps that keep TFAULT. -/
theorem tableFaultRefusesEveryCommand : Obligations.TableFaultRefusesEveryCommand :=
  ⟨fun _ => engineStep_of_tfault, fun _ _ h hne => ⟨_, List.eq_cons_of_mem_head? ((step_tfault h).resolve_left hne)⟩⟩

/-- Settles O28: a legal command and an illegal byte are rejected by the same operation. -/
theorem rejectedCommandChangesOnlyErr : Obligations.RejectedCommandChangesOnlyErr := by
  intro s t hb hs herr
  obtain ⟨e, rfl⟩ : ∃ e, t = s.raiseError e := by
    rcases engineStep_next_cases hs with ⟨hidle, -⟩ | ⟨i, -, -, he⟩ | ⟨_, -, -, rfl⟩
    · exact absurd hb (Bool.eq_false_iff.1 hidle)
    · exact he.eq_raiseError herr
    · exact ⟨_, s.illegalCommand_eq⟩
  rfl

/-- Settles O29: each branch of the chain is the first check that fails, and the last one is success. -/
theorem errorPriority : Obligations.ErrorPriority := by
  intro s t hb hs
  by_cases htf : s.tfault = true
  · rw [if_pos htf]
    exact err_of_next hs (engineStep_of_tfault hb htf)
  have ht := Bool.eq_false_iff.2 htf
  by_cases hill : 0x07 ≤ s.pend.op.toNat
  · rw [if_neg htf, if_pos hill]
    exact err_of_next hs ((illegalByteEndsWithBadOpcode s hb hill).1 ht)
  obtain ⟨i, hop⟩ := exists_eq_encode (not_le.1 hill)
  rw [engineStep_ok hb (decode_eq_ok_iff.2 hop)] at hs
  rw [if_neg htf, if_neg hill, hop]
  simp only [sequence_check_iff, encode_mem_begins_iff, encode_eq_loadKey_iff, encode_eq_decBegin_iff]
  by_cases hseq : ∃ m, requiredMode i = some m ∧ s.mode ≠ m
  · rw [if_pos hseq]
    obtain ⟨m, hi, hm⟩ := hseq
    exact err_of_next hs (exec_of_mode_ne hi ht hm)
  have hmode : ∀ m, requiredMode i = some m → s.mode = m := by simpa using hseq
  rw [if_neg hseq]
  split_ifs with hkey hkeylen hlen
  · obtain ⟨hi, hk⟩ := hkey
    exact err_of_next hs (exec_of_no_key hi ht (hmode .idle (by rcases hi with rfl | rfl <;> rfl)) hk)
  · obtain ⟨rfl, hne⟩ := hkeylen
    rw [exec_loadKey ht (hmode _ rfl), if_pos hne] at hs
    exact err_of_next hs rfl
  · obtain ⟨rfl, hne⟩ := hlen
    have hk : s.keyv = true := by simpa using hkey
    rw [exec_decBegin ht (hmode _ rfl) hk, if_pos hne] at hs
    exact err_of_next hs rfl
  · exact exec_err_of_checks hs ht hmode (by simpa using hkey) (by simpa using hkeylen) (by simpa using hlen)

/-! ### Secrets -/

/-- Settles O13: no register of the map shows one of the five (R62). -/
theorem secretsUnreadable : Obligations.SecretsUnreadable := by
  intro s key prev m sk p a
  unfold State.regRead
  cases regAt a <;> rfl

end Sys2Proof.Machine
end

section
/-! Reset and hazards (spec/70_reset_and_hazards.md): what the self-check of reset decides (R273, R274), and the operand
registers a host may write while a command is latched (R282). A write to any address but CMD reads and writes the ports alone,
which no engine step reads or writes, so the two commute. -/

namespace Sys2Proof.Machine

/-! ### The self-check at reset -/

/-- The self-check passes exactly where INV undoes FWD on every byte (R273). -/
theorem selfCheck_eq_true_iff {c : Config} :
    selfCheck c = true ↔ ∀ x : Byte, lookup c.tables.rotorI.inv (lookup c.tables.rotorI.fwd x) = x :=
  ⟨selfCheck_lookup, fun h => List.all_eq_true.2 fun x _ => beq_iff_eq.2 (h x)⟩

/-- A reset that is the next event (R270, R74). -/
theorem step_reset {s : State} {rest : List BusEvent} (h : s.host.pending = .reset :: rest) :
    step s = .next (State.afterReset s.cfg (s.withPending rest).host) := by
  rw [step, State.busStep, h]; rfl

/-- Settles O2: the reset writes the self-check's result, and a step that changes TFAULT is a reset. -/
theorem selfCheckDecidesTableFault : Obligations.SelfCheckDecidesTableFault := by
  refine ⟨fun s rest hp => ⟨_, step_reset hp, ?_⟩, fun s t hs hne => (step_tfault hs).resolve_right fun hhead => ?_⟩
  · rw [State.afterReset_tfault, Bool.not_eq_false', selfCheck_eq_true_iff]
  · exact hne _ (List.eq_cons_of_mem_head? hhead)

/-! ### The ports and the engine step -/

section
variable {s t : State}

/-- An engine step does the same whatever the ports hold (R31, R91). -/
theorem engineStep_withPorts (h : engineStep s = .next t) (p : Ports) :
    engineStep (s.withPorts p) = .next (t.withPorts p) := by
  rcases engineStep_cases s with ⟨hb, hs⟩ | ⟨i, hb, hd, hs⟩ | ⟨e, hb, hd, hs⟩ <;> rw [hs] at h
  · cases h
    exact engineStep_idle (s := s.withPorts p) hb
  · rw [engineStep_ok (s := s.withPorts p) hb hd]
    exact exec_withPorts h p
  · cases h
    rw [engineStep_illegal (s := s.withPorts p) hb hd, State.illegalCommand_eq, State.illegalCommand_eq]
    rfl

/-- An engine step leaves the ports alone. -/
theorem engineStep_ports (h : engineStep s = .next t) : t.ports = s.ports := by
  rcases engineStep_cases s with ⟨-, hs⟩ | ⟨i, -, -, hs⟩ | ⟨e, -, -, hs⟩ <;> rw [hs] at h
  · cases h; rfl
  · exact exec_ports h
  · cases h
    rw [State.illegalCommand_eq]
    rfl

end

/-! ### The ports and a register write -/

section
variable {a : Byte} (ha : regAt a ≠ .cmd) (v : Byte)
include ha

/-- A write to any register but CMD writes the ports alone (R64, R66). -/
theorem State.regWrite_eq_withPorts (s : State) : s.regWrite a v = s.withPorts (s.regWrite a v).ports := by
  rcases s.regWrite_cases a v with ⟨-, hcmd⟩ | ⟨hw, -⟩ | ⟨k, l, x, y, hw⟩
  · exact absurd hcmd ha
  · rw [hw, State.writeStatus_eq]; rfl
  · rw [hw]; rfl

/-- What a write to any register but CMD leaves in the ports depends on the ports alone (R64, R66). -/
theorem State.ports_regWrite_withPorts (s t : State) (p : Ports) :
    ((s.withPorts p).regWrite a v).ports = ((t.withPorts p).regWrite a v).ports := by
  unfold State.regWrite
  cases hr : regAt a with
  | cmd => exact absurd hr ha
  | status => simp only [State.writeStatus_eq]; rfl
  | _ => rfl

theorem State.ports_regWrite_congr {s t : State} (h : t.ports = s.ports) :
    (t.regWrite a v).ports = (s.regWrite a v).ports := by
  have hwrite := State.ports_regWrite_withPorts ha v t s s.ports
  rwa [← h, State.withPorts_ports, h, State.withPorts_ports] at hwrite

end

/-- Settles O12: the write changes the ports alone, the same before and after an engine step that does not read them. -/
theorem latchedCommandDoesNotSeeWrites : Obligations.LatchedCommandDoesNotSeeWrites := by
  intro s t a v _ hne hs
  have ha : regAt a ≠ .cmd := regAt_injective.ne hne
  calc engineStep (s.regWrite a v)
    _ = engineStep (s.withPorts (s.regWrite a v).ports) := congrArg engineStep (s.regWrite_eq_withPorts ha v)
    _ = .next (t.withPorts (s.regWrite a v).ports) := engineStep_withPorts hs _
    _ = .next (t.withPorts (t.regWrite a v).ports) := by rw [State.ports_regWrite_congr ha v (engineStep_ports hs)]
    _ = .next (t.regWrite a v) := by rw [← t.regWrite_eq_withPorts ha v]

end Sys2Proof.Machine
end

section
/-! The step by its next event (spec/20_memory.md rule R74, spec/44_commands.md rule R200), runs composed of runs, and the state
after a reset (spec/70_reset_and_hazards.md rule R270). -/

namespace Sys2Proof.Machine

/-! ### The engine's turn -/

section
variable {s : State}

/-- With no event to come the step is the engine's turn (log 9). -/
theorem step_of_pending_nil (h : s.host.pending = []) : step s = engineStep s := by
  rw [step, State.busStep, h]

/-- The engine's turn that is the next event (R74). -/
theorem step_engine {rest : List BusEvent} (h : s.host.pending = .engine :: rest) :
    step s = engineStep (s.withPending rest) := by
  rw [step, State.busStep, h]; rfl

theorem engineStep_next (s : State) : ∃ t, engineStep s = .next t := by
  rcases engineStep_cases s with ⟨-, hs⟩ | ⟨i, -, -, hs⟩ | ⟨_, -, -, hs⟩
  · exact ⟨_, hs⟩
  · obtain ⟨t, ht, -⟩ := exec_effect i s
    exact ⟨t, hs.trans ht⟩
  · exact ⟨_, hs⟩

theorem step_next (s : State) : ∃ t, step s = .next t := by
  rcases busStep_cases s with ⟨-, hs⟩ | ⟨a, rest, -, hs⟩ | ⟨a, v, rest, -, hs⟩ | ⟨rest, -, hs⟩ | ⟨rest, -, hs⟩
  · exact (engineStep_next s).imp fun _ => hs.trans
  · exact ⟨_, hs⟩
  · exact ⟨_, hs⟩
  · exact (engineStep_next (s.withPending rest)).imp fun _ => hs.trans
  · exact ⟨_, hs⟩

/-- The block a placed command is run on is the latched one, its events as they were (log 11). -/
theorem step_armCommand (s : State) (v : Byte) : step (s.armCommand v) = engineStep (s.latch v) :=
  step_engine (s := s.armCommand v) rfl

theorem commandByte_eight {w : Nat} (hw : w < 256) : commandByte 8 w = BitVec.ofNat 8 w :=
  congrArg (BitVec.ofNat 8) (Nat.mod_eq_of_lt hw)

/-- The word of a command in the opcode table is read back as the command. -/
theorem decodeTableWord_encode (i : Instr) : decodeTableWord 8 (encode i).toNat = some i :=
  have ⟨_, _, _, _, hword⟩ := encode_spec i
  hword

/-- A word of the opcode table from 0x07 up names no command (R93). -/
theorem decodeTableWord_illegal {w : Nat} (hlow : 0x07 ≤ w) (hhigh : w < 256) : decodeTableWord 8 w = none := by
  obtain ⟨e, he⟩ := decode_illegal (v := BitVec.ofNat 8 w) (by rwa [BitVec.toNat_ofNat, Nat.mod_eq_of_lt hhigh])
  rw [decodeTableWord, if_pos le_rfl, commandByte_eight hhigh, he]

end

/-- Settles O57, by the cases of a step: a command answers with one of its effects. -/
theorem stepAlwaysAnswersNext : Obligations.StepAlwaysAnswersNext := step_next

/-- Settles O14: each clause's step is the engine's turn, which executes the latched command. -/
theorem stepRunsDecodedCommand : Obligations.StepRunsDecodedCommand := by
  refine ⟨fun s i hp hb hd => ?_, fun s i rest hp hb hd => ?_, fun s i w hw hd => ?_⟩
  · rw [step_of_pending_nil hp, engineStep_ok hb hd]
  · rw [step_engine hp, engineStep_ok (s := s.withPending rest) hb hd]
  · rw [State.withFetchWord, commandByte_eight hw, step_armCommand]
    exact engineStep_ok (s := s.latch (BitVec.ofNat 8 w)) rfl hd

/-- Settles O15: the turn of an idle engine. -/
theorem idleBlockHoldsState : Obligations.IdleBlockHoldsState := by
  refine fun s hb => ⟨fun hp => ?_, fun rest hp => ?_⟩
  · rw [step_of_pending_nil hp, engineStep_idle hb]
  · rw [step_engine hp, engineStep_idle (s := s.withPending rest) hb]

/-- Settles O18: four words that encode commands and two from 0x07 up. -/
theorem decodeSampleWords : Obligations.DecodeSampleWords :=
  ⟨decodeTableWord_encode .loadKey, decodeTableWord_encode .encBlock, decodeTableWord_encode .decBlock,
    decodeTableWord_encode .endSession, decodeTableWord_illegal (by decide) (by decide),
    decodeTableWord_illegal (by decide) (by decide)⟩

/-! ### Runs -/

/-- A run goes on where another has ended. -/
theorem RunsTo.trans {m n : Nat} {s u t : State} (hsu : RunsTo m s u) (hut : RunsTo n u t) : RunsTo (m + n) s t := by
  induction m generalizing s with
  | zero =>
    obtain rfl := (RunsTo_zero s u).1 hsu
    rwa [Nat.zero_add]
  | succ m ih =>
    obtain ⟨v, hv⟩ := step_next s
    rw [Nat.succ_add]
    exact (RunsTo_succ hv).2 (ih ((RunsTo_succ hv).1 hsu))

theorem RunsTo_one {s t : State} (h : step s = .next t) : RunsTo 1 s t := (RunsTo_succ h).2 ((RunsTo_zero t t).2 rfl)

/-! ### Reset -/

/-- Settles O1: the reset values, field by field, and STATUS from them. -/
theorem resetEventLeavesResetValues : Obligations.ResetEventLeavesResetValues :=
  fun s rest hp => ⟨State.afterReset s.cfg (s.withPending rest).host, step_reset hp, rfl, rfl, rfl, rfl, rfl, rfl, rfl, rfl,
    rfl, rfl, rfl, rfl, rfl, rfl, rfl, rfl, rfl, rfl, rfl, State.afterReset_status _ _⟩

/-- Settles O59: the state after reset is one of those after reset under any configuration. -/
theorem resetHasInvariants : Obligations.ResetHasInvariants := ⟨State.afterReset_inv _ _, State.afterReset_inv⟩

end Sys2Proof.Machine
end

section
/-! What the rules leave open (spec/10_state.md section 3, spec/93_implementation_defined.md I11, I12): M and SK while nothing is
built, PEND while nothing is latched. Every operation of a step keeps the relation `State.Agree`; a block command reads M and SK
only through the schedule step, and that of a first block reads neither. -/

namespace Sys2Proof.Machine

/-! ### States that agree -/

theorem State.Agree.refl (s : State) : s.Agree s := ⟨fun _ => rfl, fun _ => rfl, fun _ => rfl, rfl⟩

/-- A state with its rotor file replaced. -/
def State.withFile (s : State) (f : RotorFile) : State := { s with machines := f.machines, sk := f.sk }

/-- With nothing built the rotor file is open (R24, R26). -/
theorem State.Agree.withFile {s : State} (h : s.built = false) (f : RotorFile) : s.Agree (s.withFile f) where
  machines hb := absurd hb (Bool.eq_false_iff.1 h)
  sk hb := absurd hb (Bool.eq_false_iff.1 h)
  pend _ := rfl
  rest := rfl

/-- A choice on which two states agree keeps the relation. -/
theorem State.Agree.ite {c : Prop} [Decidable c] {s s' u u' : State} (hpos : s.Agree s') (hneg : u.Agree u') :
    (if c then s else u).Agree (if c then s' else u') := by
  split
  · exact hpos
  · exact hneg

section
variable {s s' : State} (h : s.Agree s')
include h

theorem State.Agree.host_eq : s'.host = s.host := by rw [h.rest]
theorem State.Agree.cfg_eq : s'.cfg = s.cfg := by rw [h.rest]
theorem State.Agree.busy_eq : s'.busy = s.busy := by rw [h.rest]

/-- What is open is not readable (R251). -/
theorem State.Agree.regRead_eq (a : Byte) : s'.regRead a = s.regRead a := by
  rw [h.rest]
  exact secretsUnreadable s s.key s.prev s'.machines s'.sk s'.pend a

theorem State.Agree.withPending (l : List BusEvent) : (s.withPending l).Agree (s'.withPending l) :=
  { h with rest := by rw [h.rest]; rfl }

theorem State.Agree.hears (g : List Byte) : (s.hears g).Agree (s'.hears g) :=
  { h with rest := by rw [h.rest]; rfl }

theorem State.Agree.latch (v : Byte) : (s.latch v).Agree (s'.latch v) :=
  { h with pend := fun _ => by rw [h.rest]; rfl, rest := by rw [h.rest]; rfl }

theorem State.Agree.withPorts (p : Ports) : (s.withPorts p).Agree (s'.withPorts p) :=
  { h with rest := by rw [h.rest]; rfl }

theorem State.Agree.ports_eq : s'.ports = s.ports := by rw [h.rest]; rfl

theorem State.Agree.writeCmd (v : Byte) : (s.writeCmd v).Agree (s'.writeCmd v) := by
  cases hb : s.busy with
  | true =>
    rw [State.writeCmd_busy hb, State.writeCmd_busy (h.busy_eq.trans hb)]
    exact { h with rest := by rw [h.rest] }
  | false =>
    rw [State.writeCmd_idle hb, State.writeCmd_idle (h.busy_eq.trans hb)]
    exact h.latch v

/-- A CMD write latches the operand registers, on which the states agree; any other write reaches the ports alone. -/
theorem State.Agree.regWrite (a v : Byte) : (s.regWrite a v).Agree (s'.regWrite a v) := by
  by_cases hcmd : a = 0x00
  · rw [hcmd]
    exact h.writeCmd v
  · have ha : regAt a ≠ .cmd := regAt_injective.ne hcmd
    rw [s.regWrite_eq_withPorts ha, s'.regWrite_eq_withPorts ha, State.ports_regWrite_congr ha v h.ports_eq]
    exact h.withPorts _

end

/-! ### Commands -/

section
variable {s t t' : State} (hb : s.built = false) (f : RotorFile)
include hb

/-- The schedule step of a first block reads neither M nor SK (R24, R26). -/
theorem State.scheduleStep_withFile : (s.withFile f).scheduleStep = s.scheduleStep := by
  have hfirst : schedule s.cfg s.key (!s.built) f = schedule s.cfg s.key (!s.built) s.rotorFile := by
    rw [hb]; exact schedule_first s.cfg s.key f s.rotorFile
  exact congrArg (fun r : RotorFile => { s with machines := r.machines, sk := r.sk, built := true }) hfirst

theorem State.encryptBlock_withFile : (s.withFile f).encryptBlock = s.encryptBlock := by
  rw [State.encryptBlock, State.scheduleStep_withFile hb]; rfl

theorem State.decryptBlock_withFile : (s.withFile f).decryptBlock = s.decryptBlock := by
  rw [State.decryptBlock, State.scheduleStep_withFile hb]; rfl

/-- With nothing built a command does the same whatever M and SK hold: check by check both states are rejected alike, and the
effect builds nothing or runs the schedule step of a first block. -/
theorem exec_agree_withFile {i : Instr} (ht : exec i s = .next t) (ht' : exec i (s.withFile f) = .next t') : t.Agree t' := by
  have same (u : State) (hu : u.built = false) : u.Agree (u.withFile f) := .withFile hu f
  cases i <;> cases ht <;> cases ht'
  case nop => exact .ite (same _ hb) (same _ hb)
  case endSession => exact .ite (same _ hb) (same _ hb)
  case loadKey => exact .ite (same _ hb) (.ite (same _ hb) (.ite (same _ hb) (same _ rfl)))
  case encBegin => exact .ite (same _ hb) (.ite (same _ hb) (.ite (same _ hb) (.ite (same _ hb) (same _ hb))))
  case decBegin =>
    exact .ite (same _ hb) (.ite (same _ hb) (.ite (same _ hb) (.ite (same _ hb) (.ite (same _ hb) (same _ hb)))))
  case encBlock =>
    rw [State.encryptBlock_withFile hb]
    exact .ite (same _ hb) (.ite (same _ hb) (.refl _))
  case decBlock =>
    rw [State.decryptBlock_withFile hb]
    exact .ite (same _ hb) (.ite (same _ hb) (.refl _))

end

/-! ### Steps -/

section
variable {s s' t t' : State} (h : s.Agree s')
include h

/-- With a command latched the states differ in M and SK at most, and only while nothing is built. -/
theorem State.Agree.eq_or_withFile (hb : s.busy = true) :
    s' = s ∨ s.built = false ∧ s' = s.withFile s'.rotorFile := by
  cases hbuilt : s.built with
  | true => exact .inl (by rw [h.rest, h.machines hbuilt, h.sk hbuilt, h.pend hb])
  | false => exact .inr ⟨rfl, by rw [h.rest, h.pend hb]; rfl⟩

theorem engineStep_agree (ht : engineStep s = .next t) (ht' : engineStep s' = .next t') : t.Agree t' := by
  cases hb : s.busy with
  | false =>
    rw [engineStep_idle hb] at ht
    rw [engineStep_idle (h.busy_eq.trans hb)] at ht'
    cases ht; cases ht'
    exact h
  | true =>
    rcases h.eq_or_withFile hb with rfl | ⟨hbuilt, hfile⟩
    · cases ht.symm.trans ht'
      exact .refl t
    · rw [hfile] at ht'
      rcases engineStep_cases s with ⟨hidle, -⟩ | ⟨i, -, hd, hs⟩ | ⟨e, -, hd, hs⟩
      · exact absurd hb (Bool.eq_false_iff.1 hidle)
      · rw [engineStep_ok (s := s.withFile _) hb hd] at ht'
        exact exec_agree_withFile hbuilt _ (hs.symm.trans ht) ht'
      · rw [engineStep_illegal (s := s.withFile _) hb hd] at ht'
        rw [hs] at ht
        cases ht; cases ht'
        rw [State.illegalCommand_eq, State.illegalCommand_eq]
        exact .withFile (s := s.raiseError _) hbuilt s'.rotorFile

theorem step_agree (ht : step s = .next t) (ht' : step s' = .next t') : t.Agree t' := by
  cases hp : s.host.pending with
  | nil =>
    rw [step_of_pending_nil hp] at ht
    rw [step_of_pending_nil (h.host_eq ▸ hp)] at ht'
    exact engineStep_agree h ht ht'
  | cons e rest =>
    have hp' : s'.host.pending = e :: rest := h.host_eq ▸ hp
    have hrest := h.withPending rest
    cases e with
    | read a =>
      cases (step_read hp).symm.trans ht; cases (step_read hp').symm.trans ht'
      rw [h.regRead_eq]
      exact hrest.hears _
    | write a v =>
      cases (step_write hp).symm.trans ht; cases (step_write hp').symm.trans ht'
      exact hrest.regWrite a v
    | engine => exact engineStep_agree hrest (step_engine hp ▸ ht) (step_engine hp' ▸ ht')
    | reset =>
      cases (step_reset hp).symm.trans ht; cases (step_reset hp').symm.trans ht'
      rw [h.cfg_eq, hrest.host_eq]
      exact .refl _

end

/-- Settles O60: every step keeps the relation, and what is open stands in no register and not at the host's side. -/
theorem unspecifiedContentsStayUnobservable : Obligations.UnspecifiedContentsStayUnobservable := by
  intro s s' t t' h ht ht'
  have hnext := step_agree h ht ht'
  exact ⟨hnext, congrArg HostPort.reads hnext.host_eq, hnext.regRead_eq⟩

end Sys2Proof.Machine
end

section
/-! Accesses while a command is latched (spec/20_memory.md section 3, spec/44_commands.md section 1): a read or a write changes
nothing but the ports, so the results of the last command stay readable and the latched command stays the next one. -/

namespace Sys2Proof.Machine

/-! ### The bits of STATUS as a list -/

section
variable (s : State)

/-- The bits of STATUS, bit 0 first (R40). -/
def State.statusBits : List Bool :=
  [s.busy, s.keyv, s.built, s.mode.bits.getLsbD 0, s.mode.bits.getLsbD 1, s.tfault, s.ovr, s.errf]

theorem State.status_getLsbD (i : Nat) : s.status.getLsbD i = s.statusBits[i]?.getD false := by
  by_cases hi : i < 8
  · rw [List.getElem?_eq_getElem (l := s.statusBits) hi]
    exact s.status_bit ⟨i, hi⟩
  · rw [BitVec.getLsbD_of_ge _ _ (not_lt.1 hi), List.getElem?_eq_none (l := s.statusBits) (not_lt.1 hi)]
    rfl

/-- Where one bit of STATUS is replaced, the others stay. -/
theorem State.status_getLsbD_of_ne {s t : State} {k i : Nat} {b : Bool} (h : t.statusBits = s.statusBits.set k b)
    (hi : i ≠ k) : t.status.getLsbD i = s.status.getLsbD i := by
  rw [State.status_getLsbD, State.status_getLsbD, h, List.getElem?_set_ne hi.symm]

/-! ### The latch -/

theorem State.statusBits_latch (v : Byte) : (s.latch v).statusBits = s.statusBits.set 0 true := rfl

/-- A CMD write that is the next event of an idle block (R67). -/
theorem step_write_cmd_idle {s : State} (hb : s.busy = false) {v : Byte} {rest : List BusEvent}
    (hp : s.host.pending = .write 0x00 v :: rest) : step s = .next ((s.withPending rest).latch v) := by
  rw [step_write hp, State.regWrite_cmd, State.writeCmd_idle (s := s.withPending rest) hb]

/-- A latched command shows in STATUS alone (R68). -/
theorem State.regRead_latch_of_ne {a : Byte} (ha : a ≠ 0x01) (v : Byte) : (s.latch v).regRead a = s.regRead a := by
  have hne : regAt a ≠ .status := regAt_injective.ne ha
  unfold State.regRead
  cases hr : regAt a with
  | status => exact absurd hr hne
  | _ => rfl

end

/-! ### Accesses -/

/-- The registers a command leaves its results in, beside STATUS (R68). -/
def Reg.IsResult : Reg → Prop
  | .err | .remain _ | .blkOut _ => True
  | _ => False

theorem Reg.isResult_iff (r : Reg) : r.IsResult ↔ r.IgnoresWrite ∧ ¬ r.ReadsZero := by
  cases r <;> simp [Reg.IsResult, Reg.IgnoresWrite, Reg.ReadsZero]

theorem regAt_isResult_iff (a : Byte) :
    (regAt a).IsResult ↔ a.toNat = 0x02 ∨ 0x08 ≤ a.toNat ∧ a.toNat ≤ 0x0B ∨ 0x30 ≤ a.toNat ∧ a.toNat ≤ 0x3F := by
  rw [Reg.isResult_iff, regAt_ignoresWrite_iff, regAt_readsZero_iff]
  omega

section
variable {s : State}

theorem State.statusBits_withPorts (p : Ports) : (s.withPorts p).statusBits = s.statusBits.set 6 p.ovr := rfl

theorem State.regRead_withPorts_of_isResult {a : Byte} (ha : (regAt a).IsResult) (p : Ports) :
    (s.withPorts p).regRead a = s.regRead a := by
  unfold State.regRead
  cases hr : regAt a with
  | err | remain | blkOut => rfl
  | _ => simp [hr, Reg.IsResult] at ha

variable (hb : s.busy = true)
include hb

/-- While a command is latched a write to any register, CMD among them, reaches the ports alone (R66, R67). -/
theorem State.regWrite_of_busy (a v : Byte) : ∃ p : Ports, p.host = s.host ∧ s.regWrite a v = s.withPorts p := by
  rcases s.regWrite_cases a v with ⟨hw, -⟩ | ⟨hw, -⟩ | ⟨k, l, x, y, hw⟩
  · exact ⟨{ s.ports with ovr := true }, rfl, hw.trans (State.writeCmd_busy hb v)⟩
  · exact ⟨{ s.ports with ovr := s.ovr && !v.getLsbD 6 }, rfl, hw.trans (s.writeStatus_eq v)⟩
  · exact ⟨⟨s.ovr, k, l, x, y, s.host⟩, rfl, hw⟩

/-- A read or a write that is the next event, with a command latched (R68). -/
theorem step_access_of_busy {e : BusEvent} {rest : List BusEvent} (hp : s.host.pending = e :: rest)
    (he : (∃ a, e = .read a) ∨ ∃ a v, e = .write a v) :
    ∃ p : Ports, p.host.pending = rest ∧ step s = .next (s.withPorts p) := by
  rcases he with ⟨a, rfl⟩ | ⟨a, v, rfl⟩
  · exact ⟨((s.withPending rest).hears [s.regRead a]).ports, rfl, step_read hp⟩
  · obtain ⟨p, hhost, hw⟩ := State.regWrite_of_busy (s := s.withPending rest) hb a v
    exact ⟨p, by rw [hhost]; rfl, by rw [step_write hp, hw]; rfl⟩

end

/-- A run over reads and writes alone, with a command latched. -/
theorem RunsTo_accesses (l : List BusEvent) {s : State} (hb : s.busy = true) (hp : s.host.pending = l)
    (he : ∀ e ∈ l, (∃ a, e = .read a) ∨ ∃ a v, e = .write a v) :
    ∃ p : Ports, p.host.pending = [] ∧ RunsTo l.length s (s.withPorts p) := by
  induction l generalizing s with
  | nil => exact ⟨s.ports, hp, (RunsTo_zero _ _).2 rfl⟩
  | cons e l ih =>
    obtain ⟨hhead, hl⟩ := List.forall_mem_cons.1 he
    obtain ⟨p, hpending, hstep⟩ := step_access_of_busy hb hp hhead
    obtain ⟨q, hq, hrun⟩ := ih (s := s.withPorts p) hb hpending hl
    exact ⟨q, hq, (RunsTo_succ hstep).2 hrun⟩

/-- Settles O11: the latch shows in bit 0 of STATUS alone, and an access while BUSY = 1 reaches the ports, of which STATUS shows
OVR alone and the result registers nothing. -/
theorem latchedCommandShowsOldResults : Obligations.LatchedCommandShowsOldResults := by
  refine ⟨fun s t v rest hp hb ht => ?_, fun s t e rest hb hp he ht => ?_⟩
  · obtain rfl := Host.Outcome.next.inj ((step_write_cmd_idle hb hp).symm.trans ht)
    exact ⟨fun a ha => State.regRead_latch_of_ne (s.withPending rest) ha v,
      fun i hi => State.status_getLsbD_of_ne ((s.withPending rest).statusBits_latch v) hi, State.status_busy _⟩
  · obtain ⟨p, -, hstep⟩ := step_access_of_busy hb hp he
    obtain rfl := Host.Outcome.next.inj (hstep.symm.trans ht)
    exact ⟨hb, rfl, fun a ha => State.regRead_withPorts_of_isResult ((regAt_isResult_iff a).2 ha) p,
      fun i hi => State.status_getLsbD_of_ne (State.statusBits_withPorts p) hi, (State.status_busy _).trans hb⟩

/-- Settles O16: the run over the accesses ends with the command latched and no event to come, so the engine has its turn. -/
theorem latchedCommandCompletes : Obligations.LatchedCommandCompletes := by
  intro s hb he
  obtain ⟨p, hpending, hrun⟩ := RunsTo_accesses s.host.pending hb rfl he
  have hturn : step (s.withPorts p) = engineStep (s.withPorts p) := step_of_pending_nil hpending
  obtain ⟨t, ht, hidle, hhost, -⟩ := engineStep_completes (s := s.withPorts p) hb
  exact ⟨s.withPorts p, t, hrun, hpending, hb, rfl, hturn, ht, hrun.trans (RunsTo_one (hturn.trans ht)), hidle,
    by rw [hhost]; exact hpending⟩

end Sys2Proof.Machine
end

section
/-! The frame of the commands (spec/44_commands.md section 2, spec/10_state.md sections 3 to 6): what each effect leaves as it
was. -/

namespace Sys2Proof.Machine

section
variable {s t : State} {i : Instr} (h : Effect s i t)
include h

theorem Effect.busy_eq : t.busy = false := by cases h <;> rfl

theorem Effect.pend_eq : t.pend = s.pend := by
  cases h with
  | encBlock | decBlock => exact State.finishBlock_pend s.scheduleStep _ _ _
  | _ => rfl

/-- KEY and KEYV are LOADKEY's alone (R22, R23). -/
theorem Effect.key_eq (hi : i ≠ .loadKey) : t.key = s.key ∧ t.keyv = s.keyv := by
  cases h with
  | loadKey => exact absurd rfl hi
  | encBlock | decBlock => exact ⟨State.finishBlock_key s.scheduleStep _ _ _, State.finishBlock_keyv s.scheduleStep _ _ _⟩
  | _ => exact ⟨rfl, rfl⟩

/-- BLK_OUT is the block commands' alone (R39). -/
theorem Effect.blkOut_eq (henc : i ≠ .encBlock) (hdec : i ≠ .decBlock) : t.blkOut = s.blkOut := by
  cases h with
  | encBlock => exact absurd rfl henc
  | decBlock => exact absurd rfl hdec
  | _ => rfl

/-- M, SK and BUILT are those of the commands that run or restart the schedule (R145, R203). -/
theorem Effect.inst_eq (henc : i ≠ .encBlock) (hdec : i ≠ .decBlock) (hload : i ≠ .loadKey) : t.inst = s.inst := by
  cases h with
  | encBlock => exact absurd rfl henc
  | decBlock => exact absurd rfl hdec
  | loadKey => exact absurd rfl hload
  | _ => rfl

/-- NOP and LOADKEY leave the session as it is (R202, R203). -/
theorem Effect.session_eq (hi : i = .nop ∨ i = .loadKey) : t.prev = s.prev ∧ t.mode = s.mode ∧ t.remain = s.remain := by
  cases h with
  | rejected | nop | loadKey => exact ⟨rfl, rfl, rfl⟩
  | _ => simp at hi

/-- A command that changes KEY is a LOADKEY whose checks pass (R203). -/
theorem Effect.of_key_ne (hne : t.key ≠ s.key) :
    i = .loadKey ∧ s.tfault = false ∧ s.mode = .idle ∧ s.pend.keylen = 16 ∧ t = s.loadKey.complete := by
  by_cases hi : i = .loadKey
  · subst hi
    cases h with
    | rejected => exact absurd rfl hne
    | loadKey htf hm hk => exact ⟨rfl, htf, hm, hk, rfl⟩
  · exact absurd (h.key_eq hi).1 hne

end

/-- The operand registers, CMD and the reserved addresses show the ports alone (R62, R64). -/
theorem State.regRead_of_ports_eq {s t : State} (h : t.ports = s.ports) {a : Byte}
    (ha : (regAt a).IsOperand ∨ (regAt a).ReadsZero) : t.regRead a = s.regRead a := by
  rcases ha with ha | ha
  · unfold State.regRead
    cases hr : regAt a with
    | keylen => exact congrArg Ports.keylen h
    | len i => exact congrArg (fun p => counterByte p.len i) h
    | keyIn i => exact congrArg (fun p : Ports => p.keyIn[i]) h
    | blkIn i => exact congrArg (fun p : Ports => p.blkIn[i]) h
    | _ => simp [hr, Reg.IsOperand] at ha
  · rw [State.regRead_readsZero t ha, State.regRead_readsZero s ha]

/-- The addresses that show no result of a command. -/
theorem regAt_isOperand_or_readsZero {a : Byte} (hstatus : a.toNat ≠ 0x01) (herr : a.toNat ≠ 0x02)
    (hremain : ¬ (0x08 ≤ a.toNat ∧ a.toNat ≤ 0x0B)) (hout : ¬ (0x30 ≤ a.toNat ∧ a.toNat ≤ 0x3F)) :
    (regAt a).IsOperand ∨ (regAt a).ReadsZero := by
  rw [regAt_isOperand_iff, regAt_readsZero_iff]
  omega

/-- Settles O31, effect by effect; the ports as a whole are no command's. -/
theorem commandFrame : Obligations.CommandFrame := by
  intro i s t hexec
  have h := exec_cases hexec
  have hports := exec_ports hexec
  exact ⟨h.busy_eq, h.cfg_eq, h.pend_eq, congrArg Ports.ovr hports, h.tfault_eq, congrArg Ports.keylen hports,
    congrArg Ports.len hports, congrArg Ports.keyIn hports, congrArg Ports.blkIn hports, congrArg Ports.host hports,
    h.key_eq, h.blkOut_eq, fun henc hdec hload => machines_sk_built_of_inst_eq (h.inst_eq henc hdec hload), h.session_eq,
    fun a hstatus herr hremain hout =>
      State.regRead_of_ports_eq hports (regAt_isOperand_or_readsZero hstatus herr hremain hout)⟩

/-- Settles O32: of the events of a step only a reset and the engine's turn reach KEY, and the turn by LOADKEY's effect. -/
theorem onlyLoadKeyOrResetChangesKey : Obligations.OnlyLoadKeyOrResetChangesKey := by
  intro s t hs hne
  rcases step_next_cases hs with ⟨-, he⟩ | ⟨a, -, rfl⟩ | ⟨a, v, -, rfl⟩ | ⟨hreset, -⟩
  · rcases engineStep_next_cases he with ⟨-, rfl⟩ | ⟨i, hb, hd, heff⟩ | ⟨e, -, -, rfl⟩
    · exact absurd rfl hne
    · obtain ⟨rfl, htf, hm, hk, rfl⟩ := heff.of_key_ne hne
      exact .inr ⟨hb, decode_eq_ok_iff.1 hd, htf, hm, hk, rfl, rfl, rfl⟩
    · rw [State.illegalCommand_eq] at hne
      exact absurd rfl hne
  · exact absurd rfl hne
  · obtain ⟨-, hkey, -⟩ := State.regWrite_frame (s.withPending s.host.pending.tail) a v
    exact absurd hkey hne
  · exact .inl ⟨_, List.eq_cons_of_mem_head? hreset⟩

end Sys2Proof.Machine
end

section
/-! Whole calls (spec/44_commands.md rules R213-R218). The two directions of a call differ in their commands, in what a block
command makes of its operand and in what it chains to the next block; `Direction` names these, so that a session is followed
once for both. -/

namespace Sys2Proof.Machine

/-! ### The two directions -/

/-- What a session does with its blocks. -/
inductive Direction where
  | enc
  | dec

/-- The mode of a session (R28). -/
def Direction.mode : Direction → Mode
  | .enc => .enc
  | .dec => .dec

/-- The command that opens a session. -/
def Direction.start : Direction → Instr
  | .enc => .encBegin
  | .dec => .decBegin

/-- The command that passes one block. -/
def Direction.block : Direction → Instr
  | .enc => .encBlock
  | .dec => .decBlock

/-- The output block, from the subkeys, PREV and the block passed (R206, R209). -/
def Direction.out (c : Config) (sk : Vector Block 16) (prev b : Block) : Direction → Block
  | .enc => feistelEnc c (xorBytes b prev) sk
  | .dec => xorBytes (feistelDec c b sk) prev

/-- The next PREV, from the output block and the block passed: the ciphertext block of the two (R206, R209). -/
def Direction.carry (out b : Block) : Direction → Block
  | .enc => out
  | .dec => b

/-- The lengths a session may have: a decrypt session takes whole blocks (R208). -/
def Direction.Accepts (d : Direction) (len : Nat) : Prop := len < 2 ^ 32 ∧ (d = .dec → len % 16 = 0)

/-- The chaining of a direction, block for block (R213, R214). -/
def Direction.chaining (d : Direction) (c : Config) (key : Block) : Instance → Block → List Block → List Block
  | _, _, [] => []
  | x, prev, b :: bs =>
    let x' := x.tick c key
    let o := d.out c x'.file.sk prev b
    o :: d.chaining c key x' (d.carry o b) bs

theorem Direction.chaining_enc (c : Config) (key : Block) : Direction.enc.chaining c key = cbcEncrypt c key := by
  funext x prev bs
  induction bs generalizing x prev with
  | nil => rfl
  | cons b bs ih => rw [Direction.chaining, cbcEncrypt, ih]; rfl

theorem Direction.chaining_dec (c : Config) (key : Block) : Direction.dec.chaining c key = cbcDecrypt c key := by
  funext x prev bs
  induction bs generalizing x prev with
  | nil => rfl
  | cons b bs ih => rw [Direction.chaining, cbcDecrypt, ih]; rfl

@[simp] theorem Direction.length_chaining (d : Direction) (c : Config) (key : Block) (x : Instance) (prev : Block)
    (bs : List Block) : (d.chaining c key x prev bs).length = bs.length := by
  induction bs generalizing x prev with
  | nil => rfl
  | cons b bs ih => rw [Direction.chaining, List.length_cons, List.length_cons, ih]

theorem Instance.ticks_succ (c : Config) (key : Block) (x : Instance) (k : Nat) :
    x.ticks c key (k + 1) = (x.ticks c key k).tick c key := by
  induction k generalizing x with
  | zero => rfl
  | succ k ih => rw [Instance.ticks, ih, Instance.ticks]

/-! ### Padding -/

/-- The blocks a session of `n` bytes takes from the operands: zeros past the end of the session (R206). -/
def padBlocks : Nat → List Block → List Block
  | _, [] => []
  | n, b :: bs => padBlock (min 16 n) b :: padBlocks (n - 16) bs

theorem padBlock_get {n i : Nat} {b : Block} (hi : i < 16) : (padBlock n b)[i] = if i < n then b[i] else 0 := by
  simp [padBlock]

@[simp] theorem padBlock_sixteen (b : Block) : padBlock 16 b = b := by
  refine Vector.ext fun i hi => ?_
  rw [padBlock_get hi, if_pos hi]

@[simp] theorem length_padBlocks (n : Nat) (bs : List Block) : (padBlocks n bs).length = bs.length := by
  induction bs generalizing n with
  | nil => rfl
  | cons b bs ih => rw [padBlocks, List.length_cons, List.length_cons, ih]

theorem padBlocks_get (n : Nat) (bs : List Block) {j : Nat} (hj : j < bs.length) :
    (padBlocks n bs)[j]'(by simpa using hj) = padBlock (min 16 (n - 16 * j)) bs[j] := by
  induction bs generalizing n j with
  | nil => exact absurd hj (Nat.not_lt_zero j)
  | cons b bs ih =>
    cases j with
    | zero => rfl
    | succ j =>
      rw [show n - 16 * (j + 1) = n - 16 - 16 * j by omega]
      exact ih (n - 16) (Nat.lt_of_succ_lt_succ hj)

/-- Whole blocks are passed as they are. -/
theorem padBlocks_of_length {n : Nat} {bs : List Block} (h : n = 16 * bs.length) : padBlocks n bs = bs := by
  refine List.ext_getElem (length_padBlocks n bs) fun j _ hj => ?_
  rw [padBlocks_get n bs hj, show min 16 (n - 16 * j) = 16 by omega, padBlock_sixteen]

@[simp] theorem length_bufferBlocks (p : List Byte) : (bufferBlocks p).length = blockCount p.length := by
  simp [bufferBlocks]

theorem bufferBlocks_get (p : List Byte) {j : Nat} (hj : j < blockCount p.length) :
    (bufferBlocks p)[j]'(by simpa using hj) = bufferBlock p j := by
  simp [bufferBlocks]

theorem bufferBlocks_get? (p : List Byte) (j : Nat) :
    (bufferBlocks p)[j]? = if j < blockCount p.length then some (bufferBlock p j) else none := by
  split
  · next hj => rw [List.getElem?_eq_getElem (by simpa using hj), bufferBlocks_get p hj]
  · next hj => exact List.getElem?_eq_none (by simpa using hj)

theorem bufferBlock_get (p : List Byte) (j : Nat) {i : Nat} (hi : i < 16) : (bufferBlock p j)[i] = p.getD (16 * j + i) 0 := by
  simp [bufferBlock]

/-- Operands that hold a buffer, with anything past its end, are padded to the blocks of the buffer (R206, R213). -/
theorem padBlocks_eq_bufferBlocks {p : List Byte} {bs : List Block} (hlen : bs.length = blockCount p.length)
    (hbytes : ∀ (j : Nat) (hj : j < bs.length) (i : Nat) (hi : i < 16) (hp : 16 * j + i < p.length),
      (bs[j])[i] = p[16 * j + i]) : padBlocks p.length bs = bufferBlocks p := by
  refine List.ext_getElem (by simpa using hlen) fun j hj hj' => Vector.ext fun i hi => ?_
  rw [length_padBlocks] at hj
  rw [padBlocks_get _ _ hj, bufferBlocks_get p (hlen ▸ hj), padBlock_get hi, bufferBlock_get p j hi]
  by_cases hp : 16 * j + i < p.length
  · rw [if_pos (by omega), hbytes j hj i hi hp, List.getD_eq_getElem _ _ hp]
  · rw [if_neg (by omega), List.getD_eq_default _ _ (not_lt.1 hp)]

/-- The blocks of a buffer are padded already (log 22). -/
theorem padBlocks_bufferBlocks (p : List Byte) : padBlocks p.length (bufferBlocks p) = bufferBlocks p := by
  refine padBlocks_eq_bufferBlocks (length_bufferBlocks p) fun j hj i hi hp => ?_
  rw [bufferBlocks_get p (by simpa using hj), bufferBlock_get p j hi, List.getD_eq_getElem _ _ hp]

/-! ### The commands of a direction -/

section
variable {s : State} (d : Direction)

theorem Direction.requiredMode_block : requiredMode d.block = some d.mode := by cases d <;> rfl

/-- The BEGIN of a direction, past its checks (R204, R207). -/
theorem Direction.exec_start (ht : s.tfault = false) (hm : s.mode = .idle) (hk : s.keyv = true)
    (hlen : d = .dec → s.pend.len.toNat % 16 = 0) :
    exec d.start s = .next (if s.pend.len = 0 then s.complete else (s.beginSession d.mode s.pend.len).complete) := by
  cases d with
  | enc => exact exec_encBegin ht hm hk
  | dec => exact (exec_decBegin ht hm hk).trans (by rw [if_neg (not_not_intro (hlen rfl))]; rfl)

/-- The output of the direction's block command in a state (R206, R209). -/
def Direction.outBlock (s : State) : Block := d.out s.cfg s.scheduleStep.sk s.prev s.plainBlock

/-- The block command of a direction in its own session, with whole blocks left where it decrypts (R206, R209). -/
theorem Direction.exec_block (ht : s.tfault = false) (hm : s.mode = d.mode) (hlen : d = .dec → 16 ≤ s.remain.toNat) :
    exec d.block s = .next
      (s.scheduleStep.finishBlock (d.outBlock s) (d.carry (d.outBlock s) s.plainBlock) s.plainBytes).complete := by
  cases d with
  | enc => exact exec_encBlock ht hm
  | dec =>
    have hbytes : s.plainBytes = 16 := Nat.min_eq_left (hlen rfl)
    have hplain : s.plainBlock = s.blkOperand := by rw [State.plainBlock, hbytes, padBlock_sixteen]
    rw [Direction.outBlock, hbytes, hplain]
    exact exec_decBlock ht hm

end

section
variable {s : State} (hb : s.busy = false) (i : Instr)
include hb

theorem State.putLen_issue (n : Nat) :
    (s.putLen n).issue i = nextState? (exec i (State.latch { s with len := BitVec.ofNat 32 n } (encode i))) := by
  rw [State.putLen_eq]
  exact State.issue_eq (s := { s with len := BitVec.ofNat 32 n }) hb i

theorem State.putBlk_issue (b : Block) :
    (s.putBlk b).issue i = nextState? (exec i (State.latch { s with blkIn := b } (encode i))) := by
  rw [State.putBlk_eq]
  exact State.issue_eq (s := { s with blkIn := b }) hb i

end

/-! ### A session in progress -/

/-- `s` is a state of a session of `len` bytes begun from `s₀`, with `k` of its blocks done; `prev` is the block to be chained
to the next one. -/
structure State.During (s₀ : State) (d : Direction) (len k : Nat) (prev : Block) (s : State) : Prop where
  tfault : s.tfault = false
  cfg : s.cfg = s₀.cfg
  key : s.key = s₀.key
  keyv : s.keyv = true
  inst : s.inst = s₀.inst.ticks s₀.cfg s₀.key k
  mode : s.mode = if 16 * k < len then d.mode else .idle
  remain : len ≠ 0 → s.remain.toNat = len - 16 * k
  prev : 16 * k < len → s.prev = prev

/-- The same between two commands, the last one having succeeded. -/
structure State.After (s₀ : State) (d : Direction) (len k : Nat) (prev : Block) (s : State) : Prop
    extends s₀.During d len k prev s where
  idle : s.busy = false
  err : s.err = 0

section
variable {s₀ s : State} {d : Direction} {len k : Nat} {prev : Block}

/-- The BEGIN command opens the session (R204, R207, R212). -/
theorem State.Ready.issue_start (hs : s.Ready) (hm : s.mode = .idle) (hk : s.keyv = true) (hlen : d.Accepts len) :
    ∃ t, (s.putLen len).issue d.start = some t ∧ s.After d len 0 zeroBlock t := by
  obtain ⟨hb, ht⟩ := hs
  obtain ⟨hbound, hwhole⟩ := hlen
  have hnat : (BitVec.ofNat 32 len).toNat = len := Nat.mod_eq_of_lt hbound
  have hzero : BitVec.ofNat 32 len = 0 ↔ len = 0 := by rw [← BitVec.toNat_inj, hnat]; rfl
  rw [State.putLen_issue hb,
    d.exec_start (s := State.latch { s with len := BitVec.ofNat 32 len } _) ht hm hk fun hd => hnat.symm ▸ hwhole hd]
  refine ⟨_, rfl, ?_⟩
  simp only [State.latch_pend, State.snapshot, hzero]
  by_cases h0 : len = 0
  · rw [if_pos h0]
    exact ⟨⟨ht, rfl, rfl, hk, rfl, by simpa [h0] using hm, fun h => absurd h0 h, fun h => by omega⟩, rfl, rfl⟩
  · rw [if_neg h0]
    exact ⟨⟨ht, rfl, rfl, hk, rfl, (if_pos (by omega)).symm, fun _ => hnat, fun _ => rfl⟩, rfl, rfl⟩

/-- Neither the operand nor the latch is the session's. -/
theorem State.During.latch (h : s₀.During d len k prev s) (b : Block) (v : Byte) :
    s₀.During d len k prev (State.latch { s with blkIn := b } v) := { h with }

/-- A block command takes a session with bytes left one block further (R206, R209, R211). -/
theorem State.During.exec_block (h : s₀.During d len k prev s) (hlen : d.Accepts len) (hk : 16 * k < len) :
    let p := padBlock (min 16 (len - 16 * k)) s.blkOperand
    let o := d.out s₀.cfg (s₀.inst.ticks s₀.cfg s₀.key (k + 1)).file.sk prev p
    ∃ t, exec d.block s = .next t ∧ t.blkOut = o ∧ s₀.After d len (k + 1) (d.carry o p) t := by
  intro p o
  obtain ⟨hbound, hwhole⟩ := hlen
  have hremain : s.remain.toNat = len - 16 * k := h.remain (by omega)
  have hbytes : s.plainBytes = min 16 (len - 16 * k) := by rw [← hremain]; rfl
  have hplain : s.plainBlock = p := by rw [State.plainBlock, hbytes]
  have hinst : s.scheduleStep.inst = s₀.inst.ticks s₀.cfg s₀.key (k + 1) := by
    rw [scheduleStep_inst, h.inst, h.cfg, h.key, Instance.ticks_succ]
  have hsk : s.scheduleStep.sk = (s₀.inst.ticks s₀.cfg s₀.key (k + 1)).file.sk := congrArg (·.file.sk) hinst
  have hout : d.outBlock s = o := by rw [Direction.outBlock, hplain, hsk, h.cfg, h.prev hk]
  have hexec := d.exec_block h.tfault (h.mode.trans (if_pos hk)) fun hd => by
    have h16 := hwhole hd
    omega
  rw [hout, hplain, State.finishBlock_of_le (by exact Nat.min_le_right 16 s.remain.toNat)] at hexec
  have hlast : s.remain.toNat = s.plainBytes ↔ ¬ 16 * (k + 1) < len := by omega
  simp only [State.scheduleStep_remain, State.scheduleStep_mode, hlast, ite_not] at hexec
  refine ⟨_, hexec, rfl, ⟨⟨h.tfault, h.cfg, h.key, h.keyv, hinst, ?_, fun _ => ?_, fun hnext => if_pos hnext⟩, rfl, rfl⟩⟩
  · rw [State.complete_mode, h.mode, if_pos hk]
  · rw [State.complete_remain, BitVec.toNat_ofNat]
    omega

/-- The block put and its command issued (R213, R214). -/
theorem State.After.issue_block (h : s₀.After d len k prev s) (hlen : d.Accepts len) (hk : 16 * k < len) (b : Block) :
    let p := padBlock (min 16 (len - 16 * k)) b
    let o := d.out s₀.cfg (s₀.inst.ticks s₀.cfg s₀.key (k + 1)).file.sk prev p
    ∃ t, (s.putBlk b).issue d.block = some t ∧ t.getBlk = o ∧ s₀.After d len (k + 1) (d.carry o p) t := by
  obtain ⟨t, hexec, hout, hafter⟩ := (h.latch b (encode d.block)).exec_block hlen hk
  exact ⟨t, by rw [State.putBlk_issue h.idle, hexec]; rfl, t.getBlk_eq.trans hout, hafter⟩

/-- Block commands pass the padded blocks through the chaining, for as many blocks as the session has left (R213, R214). -/
theorem State.After.passBlocks (h : s₀.After d len k prev s) (hlen : d.Accepts len) (bs : List Block)
    (hk : 16 * (k + bs.length) < len + 16) :
    ∃ t last, State.passBlocks d.block s bs = some (t, d.chaining s₀.cfg s₀.key (s₀.inst.ticks s₀.cfg s₀.key k) prev
        (padBlocks (len - 16 * k) bs)) ∧ s₀.After d len (k + bs.length) last t := by
  induction bs generalizing s k prev with
  | nil => exact ⟨s, prev, rfl, h⟩
  | cons b bs ih =>
    rw [List.length_cons] at hk
    obtain ⟨u, hissue, hget, hu⟩ := h.issue_block hlen (by omega) b
    obtain ⟨t, last, hpass, ht⟩ := ih hu (by omega)
    refine ⟨t, last, ?_, by rwa [List.length_cons, ← Nat.succ_add_eq_add_succ]⟩
    rw [State.passBlocks, hissue]
    simp only [hpass, hget]
    rw [padBlocks, Direction.chaining, ← Instance.ticks_succ, show len - 16 * k - 16 = len - 16 * (k + 1) by omega]

/-- The block command of an ended session is refused with SEQUENCE (R206, R209). -/
theorem State.After.issue_block_ended (h : s₀.After d len k prev s) (hk : len ≤ 16 * k) (b : Block) :
    ∃ u, (s.putBlk b).issue d.block = some u ∧ u.err = 0x04 := by
  have hmode : s.mode ≠ d.mode := by
    rw [h.mode, if_neg (not_lt.2 hk)]
    cases d <;> decide
  have hexec := exec_of_mode_ne (s := State.latch { s with blkIn := b } (encode d.block)) d.requiredMode_block h.tfault hmode
  exact ⟨_, by rw [State.putBlk_issue h.idle, hexec]; rfl, rfl⟩

/-- A call of as many blocks as its length has, or fewer, is the chaining of its padded blocks (R213, R214). -/
theorem State.Ready.call (hs : s.Ready) (hm : s.mode = .idle) (hk : s.keyv = true) (hlen : d.Accepts len) {bs : List Block}
    (hbs : 16 * bs.length < len + 16) :
    ∃ t last, s.call d.start d.block len bs = some (t, d.chaining s.cfg s.key s.inst zeroBlock (padBlocks len bs)) ∧
      s.After d len bs.length last t := by
  obtain ⟨u, hstart, hu⟩ := hs.issue_start hm hk hlen
  obtain ⟨t, last, hpass, ht⟩ := hu.passBlocks hlen bs (by omega)
  rw [Nat.zero_add] at ht
  exact ⟨t, last, by rw [State.call, hstart]; exact hpass, ht⟩

/-- A session all of whose blocks are done is over (R211). -/
theorem State.After.mode_ended (h : s₀.After d len k prev s) (hk : len ≤ 16 * k) : s.mode = .idle := by
  rw [h.mode, if_neg (not_lt.2 hk)]

theorem State.After.ready (h : s₀.After d len k prev s) : s.Ready := ⟨h.idle, h.tfault⟩

end

/-! ### The two calls -/

theorem le_blockCount (n : Nat) : n ≤ 16 * blockCount n := by rw [blockCount]; omega

theorem blockCount_lt (n : Nat) : 16 * blockCount n < n + 16 := by rw [blockCount]; omega

theorem length_cbcEncrypt_bufferBlocks (c : Config) (key : Block) (x : Instance) (prev : Block) (p : List Byte) :
    (cbcEncrypt c key x prev (bufferBlocks p)).length = blockCount p.length := by
  rw [← Direction.chaining_enc, Direction.length_chaining, length_bufferBlocks]

section
variable {s : State} (hs : s.Ready) (hm : s.mode = .idle) (hk : s.keyv = true)
include hs hm hk

theorem State.Ready.encryptCall {p : List Byte} (hp : p.length < 2 ^ 32) :
    ∃ t last, s.encryptCall p = some (t, cbcEncrypt s.cfg s.key s.inst zeroBlock (bufferBlocks p)) ∧
      s.After .enc p.length (blockCount p.length) last t := by
  obtain ⟨t, last, hcall, ht⟩ := hs.call (d := .enc) (bs := bufferBlocks p) hm hk ⟨hp, nofun⟩
    (by rw [length_bufferBlocks]; exact blockCount_lt p.length)
  rw [padBlocks_bufferBlocks, Direction.chaining_enc] at hcall
  rw [length_bufferBlocks] at ht
  exact ⟨t, last, hcall, ht⟩

theorem State.Ready.decryptCall {cs : List Block} (hcs : 16 * cs.length < 2 ^ 32) :
    ∃ t last, s.decryptCall cs = some (t, cbcDecrypt s.cfg s.key s.inst zeroBlock cs) ∧
      s.After .dec (16 * cs.length) cs.length last t := by
  obtain ⟨t, last, hcall, ht⟩ := hs.call (d := .dec) (bs := cs) hm hk ⟨hcs, fun _ => Nat.mul_mod_right 16 _⟩
    (Nat.lt_add_of_pos_right (by decide))
  rw [padBlocks_of_length rfl, Direction.chaining_dec] at hcall
  exact ⟨t, last, hcall, ht⟩

end

/-- Settles O48: the operands are padded to the blocks of the buffer, and the session is over with its last block. -/
theorem encryptCallIsChaining : Obligations.EncryptCallIsChaining := by
  intro s p bs hs hm hk hp hlen hbytes
  obtain ⟨t, last, hcall, ht⟩ := hs.call (d := .enc) (bs := bs) hm hk ⟨hp, nofun⟩ (hlen ▸ blockCount_lt p.length)
  rw [padBlocks_eq_bufferBlocks hlen hbytes, Direction.chaining_enc] at hcall
  exact ⟨t, hcall, ht.mode_ended (hlen ▸ le_blockCount p.length), ht.err, ht.idle, ht.key, ht.inst⟩

/-- Settles O49: a session of whole blocks. -/
theorem decryptCallIsChaining : Obligations.DecryptCallIsChaining := by
  intro s cs hs hm hk hcs
  obtain ⟨t, last, hcall, ht⟩ := hs.decryptCall hm hk hcs
  exact ⟨t, hcall, ht.mode_ended le_rfl, ht.err, ht.idle, ht.key, ht.inst⟩

/-- Settles O51: the call, then the session after every number of its blocks. -/
theorem ciphertextLength : Obligations.CiphertextLength := by
  intro s p hs hm hk hp
  obtain ⟨t, last, hcall, -⟩ := hs.encryptCall hm hk hp
  obtain ⟨s', hstart, hs'⟩ := hs.issue_start (d := .enc) hm hk ⟨hp, nofun⟩
  have hcover := le_blockCount p.length
  have htight := blockCount_lt p.length
  have hlength := length_cbcEncrypt_bufferBlocks s.cfg s.key s.inst zeroBlock p
  refine ⟨⟨t, _, hcall, by rwa [hlength], by rwa [hlength], fun hwhole => by rw [hlength]; omega⟩,
    s', hstart, hs'.err, fun bs hbs => ?_⟩
  obtain ⟨u, last', hpass, hu⟩ := hs'.passBlocks ⟨hp, nofun⟩ bs (by omega)
  rw [Nat.zero_add] at hu
  exact ⟨u, _, hpass, by rw [Direction.length_chaining, length_padBlocks], hu.err,
    fun hne => hu.remain (mt List.length_eq_zero_iff.1 hne), hu.mode, fun hend b => hu.issue_block_ended hend b⟩

/-! ### The round trip -/

/-- With nothing built a schedule step starts afresh, whatever the file holds (R24, R26). -/
theorem Instance.tick_of_unbuilt (c : Config) (key : Block) {x y : Instance} (hx : x.built = false) (hy : y.built = false) :
    x.tick c key = y.tick c key := by
  rw [Instance.tick, Instance.tick, hx, hy, Bool.not_false, schedule_first c key x.file y.file]

theorem cbcDecrypt_of_unbuilt (c : Config) (key : Block) {x y : Instance} (hx : x.built = false) (hy : y.built = false)
    (prev : Block) (cs : List Block) : cbcDecrypt c key x prev cs = cbcDecrypt c key y prev cs := by
  cases cs with
  | nil => rfl
  | cons b cs => rw [cbcDecrypt, cbcDecrypt, Instance.tick_of_unbuilt c key hx hy]

/-- From one rotor file and one PREV decryption undoes encryption, block for block (R215). -/
theorem cbcDecrypt_cbcEncrypt (c : Config) (key : Block) (x : Instance) (prev : Block) (ps : List Block) :
    cbcDecrypt c key x prev (cbcEncrypt c key x prev ps) = ps := by
  induction ps generalizing x prev with
  | nil => rfl
  | cons p ps ih =>
    obtain ⟨hinvert, -⟩ := feistelDirectionsInvert c (xorBytes p prev) (x.tick c key).file.sk
    rw [cbcEncrypt, cbcDecrypt, hinvert, xorBytes_cancel, ih]

/-- `t` is ready for a session with the key `k` and has built nothing. -/
structure State.Fresh (c : Config) (k : Block) (t : State) : Prop where
  ready : t.Ready
  mode : t.mode = .idle
  keyv : t.keyv = true
  cfg : t.cfg = c
  key : t.key = k
  unbuilt : t.inst.built = false

/-- The constructor of an idle block outside a session makes a fresh cipher (R98, R203). -/
theorem State.Ready.construct {s : State} (hs : s.Ready) (hm : s.mode = .idle) (k : Block) :
    ∃ t, s.construct k = some t ∧ State.Fresh s.cfg k t := by
  obtain ⟨hb, ht⟩ := hs
  generalize hu : State.latch { s with keyIn := k, keylen := 16 } (encode .loadKey) = u
  have hissue : s.construct k = nextState? (exec .loadKey u) := by
    rw [State.construct, State.putKey_eq, ← hu]
    exact State.issue_eq (s := { s with keyIn := k, keylen := 16 }) hb .loadKey
  rw [exec_loadKey (hu ▸ ht) (hu ▸ hm), if_neg (not_not_intro (hu ▸ rfl))] at hissue
  subst hu
  exact ⟨_, hissue, ⟨rfl, ht⟩, hm, rfl, rfl, rfl, rfl⟩

/-- Settles O50: both sessions start with nothing built, and so run the same schedule. -/
theorem roundTripOnFreshInstances : Obligations.RoundTripOnFreshInstances := by
  intro s k p hs hm hp
  obtain ⟨s1, hs1, f1⟩ := hs.construct hm k
  obtain ⟨s2, last, hs2, h2⟩ := f1.ready.encryptCall f1.mode f1.keyv (p := p) (by omega)
  have hidle := h2.mode_ended (le_blockCount p.length)
  obtain ⟨s3, hs3, f3⟩ := h2.ready.construct hidle k
  have hlength := length_cbcEncrypt_bufferBlocks s1.cfg s1.key s1.inst zeroBlock p
  have hbound : 16 * blockCount p.length < 2 ^ 32 := by
    have htight := blockCount_lt p.length
    rw [blockCount] at htight ⊢
    omega
  obtain ⟨s4, last', hs4, h4⟩ := f3.ready.decryptCall f3.mode f3.keyv (hlength ▸ hbound)
  have hundo : cbcDecrypt s3.cfg s3.key s3.inst zeroBlock (cbcEncrypt s1.cfg s1.key s1.inst zeroBlock (bufferBlocks p)) =
      bufferBlocks p := by
    rw [f3.cfg, h2.cfg, f3.key, f1.key, cbcDecrypt_of_unbuilt _ _ f3.unbuilt f1.unbuilt, cbcDecrypt_cbcEncrypt]
  rw [hundo] at hs4
  exact ⟨s1, s2, s3, s4, _, hs1, hs2, hs3, hs4, h4.mode_ended le_rfl, h4.err⟩

/-! ### Causality -/

/-- The Feistel engine is injective for given subkeys (R184). -/
theorem feistelEnc_injective (c : Config) (sk : Vector Block 16) : Function.Injective fun b => feistelEnc c b sk :=
  Function.LeftInverse.injective (g := fun b => feistelDec c b sk) fun b => (feistelDirectionsInvert c b sk).1

section
variable (c : Config) (key : Block) (x : Instance)

/-- A block that chains in another value, with the same data, comes out different. -/
theorem feistelEnc_ne_of_prev_ne (sk : Vector Block 16) {v w : Block} (h : v ≠ w) (p : Block) :
    feistelEnc c (xorBytes p v) sk ≠ feistelEnc c (xorBytes p w) sk := fun heq =>
  h (xorBytes_left_inj (c := p) (by rw [xorBytes_comm v, xorBytes_comm w]; exact feistelEnc_injective c sk heq))

/-- A block with other data that chains in the same value comes out different. -/
theorem feistelEnc_ne_of_data_ne (sk : Vector Block 16) {p q : Block} (h : p ≠ q) (v : Block) :
    feistelEnc c (xorBytes p v) sk ≠ feistelEnc c (xorBytes q v) sk := fun heq =>
  h (xorBytes_left_inj (feistelEnc_injective c sk heq))

/-- The ciphertext blocks of a beginning of the plaintext are a beginning of the ciphertext (R217). -/
theorem cbcEncrypt_take (prev : Block) (ps : List Block) (i : Nat) :
    cbcEncrypt c key x prev (ps.take i) = (cbcEncrypt c key x prev ps).take i := by
  induction ps generalizing x prev i with
  | nil => rw [List.take_nil, cbcEncrypt, List.take_nil]
  | cons p ps ih =>
    cases i with
    | zero => rfl
    | succ i => rw [List.take_succ_cons, cbcEncrypt, cbcEncrypt, List.take_succ_cons, ih]

/-- Another chained value changes every block after it (R217). -/
theorem cbcEncrypt_ne_of_prev_ne {v w : Block} (h : v ≠ w) {ps : List Block} {j : Nat} (hj : j < ps.length) :
    (cbcEncrypt c key x v ps)[j]? ≠ (cbcEncrypt c key x w ps)[j]? := by
  induction ps generalizing x v w j with
  | nil => exact absurd hj (Nat.not_lt_zero j)
  | cons p ps ih =>
    have hout := feistelEnc_ne_of_prev_ne c (x.tick c key).file.sk h p
    rw [cbcEncrypt, cbcEncrypt]
    cases j with
    | zero => simpa using hout
    | succ j => exact ih _ hout (Nat.lt_of_succ_lt_succ hj)

/-- Two plaintexts that part at block `i` alone have other ciphertext blocks from there on (R217). -/
theorem cbcEncrypt_ne_of_block_ne (prev : Block) (pre : List Block) {a b : Block} (h : a ≠ b) (post : List Block) {j : Nat}
    (hpre : pre.length ≤ j) (hj : j < (pre ++ a :: post).length) :
    (cbcEncrypt c key x prev (pre ++ a :: post))[j]? ≠ (cbcEncrypt c key x prev (pre ++ b :: post))[j]? := by
  induction pre generalizing x prev j with
  | nil =>
    have hout := feistelEnc_ne_of_data_ne c (x.tick c key).file.sk h prev
    rw [List.nil_append, List.nil_append, cbcEncrypt, cbcEncrypt]
    cases j with
    | zero => simpa using hout
    | succ j => exact cbcEncrypt_ne_of_prev_ne c key _ hout (Nat.lt_of_succ_lt_succ hj)
  | cons p pre ih =>
    cases j with
    | zero => exact absurd hpre (Nat.not_succ_le_zero _)
    | succ j => exact ih _ _ (Nat.le_of_succ_le_succ hpre) (Nat.lt_of_succ_lt_succ hj)

end

/-- The blocks of a buffer, parted at block `i`. -/
theorem bufferBlocks_eq_append (p : List Byte) {i : Nat} (hi : i < blockCount p.length) :
    bufferBlocks p = (bufferBlocks p).take i ++ bufferBlock p i :: (bufferBlocks p).drop (i + 1) := by
  have hi' : i < (bufferBlocks p).length := by rwa [length_bufferBlocks]
  rw [← bufferBlocks_get p hi, ← List.drop_eq_getElem_cons hi', List.take_append_drop]

/-- Settles O52: the blocks before block i have the same beginning of plaintext, and at block i the chained value is the same but
the data are not. -/
theorem chainingCausality : Obligations.ChainingCausality := by
  intro s t u p q cs ds i hs hm hk hp hpq hi hne hsame hcs hds
  obtain ⟨t', _, hcs', -⟩ := hs.encryptCall hm hk hp
  obtain ⟨u', _, hds', -⟩ := hs.encryptCall hm hk (hpq ▸ hp)
  obtain ⟨-, rfl⟩ := Prod.mk.inj (Option.some.inj (hcs'.symm.trans hcs))
  obtain ⟨-, rfl⟩ := Prod.mk.inj (Option.some.inj (hds'.symm.trans hds))
  have hget : ∀ j, j ≠ i → (bufferBlocks p)[j]? = (bufferBlocks q)[j]? := fun j hj => by
    rw [bufferBlocks_get?, bufferBlocks_get?, hpq, hsame j hj]
  have htake : (bufferBlocks p).take i = (bufferBlocks q).take i := by
    refine List.ext_getElem? fun j => ?_
    rw [List.getElem?_take, List.getElem?_take]
    split
    · exact hget j (by omega)
    · rfl
  have hdrop : (bufferBlocks p).drop (i + 1) = (bufferBlocks q).drop (i + 1) := by
    refine List.ext_getElem? fun j => ?_
    rw [List.getElem?_drop, List.getElem?_drop]
    exact hget _ (by omega)
  refine ⟨fun j hj => ?_, fun j hj hlast => ?_⟩
  · rw [← List.getElem?_take_of_lt hj, ← cbcEncrypt_take, htake, cbcEncrypt_take, List.getElem?_take_of_lt hj]
  · have hparts := bufferBlocks_eq_append p hi
    rw [hparts, bufferBlocks_eq_append q (hpq ▸ hi), ← htake, ← hdrop]
    exact cbcEncrypt_ne_of_block_ne _ _ _ _ _ hne _ ((List.length_take_le i _).trans hj)
      (by rwa [← hparts, length_bufferBlocks])

end Sys2Proof.Machine
end

section
/-! Host programs (spec/30_encoding.md rules R97, R98) under every schedule: `run`, `wait` and `expect` on the machine, and the
programs of the three calls, statement by statement. -/

namespace Sys2Proof.Machine

/-! ### Single statements -/

section
variable {s t : State}

/-- What the host has read, where the events to come and the bytes read before are those of an earlier state. -/
theorem State.hears_of_host_eq (h : t.host = s.host) (g : List Byte) :
    t.hears g = { t with host := { pending := s.host.pending, reads := g ++ s.host.reads } } := by
  rw [State.hears, h]

theorem runActions_pollStatus {q q' : List Bool} (h : s.pollUntilIdle q = some (t, q')) (l : List HostAction) :
    runActions (.pollStatus :: l) q s = runActions l q' t := by
  rw [runActions, h]

theorem runProgram_wait {q q' : List Bool} (h : s.pollUntilIdle q = some (t, q')) : runProgram q [.wait] s = .finished t :=
  (runActions_pollStatus h []).trans (by rw [runActions])

/-- On an idle block `run` is the loop of `wait` on the latched command. -/
theorem runProgram_run (hb : s.busy = false) (i : Instr) {q q' : List Bool}
    (h : (s.latch (encode i)).pollUntilIdle q.tail = some (t, q')) : runProgram q [.run i] s = .finished t := by
  have hwrite : s.access (q.headD true) (.wr (Reg.address .cmd) (encode i)) = some (s.latch (encode i)) := by
    rw [State.access_idle hb, Transaction.event, State.offer_write]
    exact congrArg some (State.write_cmd hb [] (encode i))
  show runActions [.bus (.wr (Reg.address .cmd) (encode i)), .pollStatus] q s = _
  rw [runActions, hwrite]
  exact (runActions_pollStatus h []).trans (by rw [runActions])

end

/-! ### The host's side -/

/-- A state with its host's side replaced. -/
def State.withHost (s : State) (p : HostPort) : State := { s with host := p }

section
variable {s t : State} (l : List BusEvent) (g : List Byte)

theorem step_withHost_read (s : State) (a : Byte) :
    step (s.withHost ⟨.read a :: l, g⟩) = .next (s.withHost ⟨l, s.regRead a :: g⟩) :=
  step_read (s := s.withHost ⟨.read a :: l, g⟩) rfl

theorem step_withHost_write_cmd (hb : s.busy = false) (v : Byte) :
    step (s.withHost ⟨.write 0x00 v :: l, g⟩) = .next ((s.latch v).withHost ⟨l, g⟩) :=
  step_write_cmd_idle (s := s.withHost ⟨.write 0x00 v :: l, g⟩) hb rfl

/-- An engine step neither reads nor writes the host's side (R31, R200). -/
theorem engineStep_withHost (h : engineStep s = .next t) (p : HostPort) : engineStep (s.withHost p) = .next (t.withHost p) := by
  have hports := engineStep_ports h
  calc engineStep (s.withHost p)
    _ = .next (t.withPorts { s.ports with host := p }) := engineStep_withPorts h { s.ports with host := p }
    _ = .next (t.withHost p) := by rw [← hports]; rfl

theorem step_withHost_engine (h : engineStep s = .next t) :
    step (s.withHost ⟨.engine :: l, g⟩) = .next (t.withHost ⟨l, g⟩) :=
  (step_engine (s := s.withHost ⟨.engine :: l, g⟩) rfl).trans (engineStep_withHost h ⟨l, g⟩)

theorem RunsTo_withHost_polls (s : State) (n : Nat) (a : Byte) :
    RunsTo n (s.withHost ⟨List.replicate n (.read a) ++ l, g⟩) (s.withHost ⟨l, List.replicate n (s.regRead a) ++ g⟩) := by
  have hreads := RunsTo_reads (List.replicate n a) (s := s.withHost ⟨List.replicate n (.read a) ++ l, g⟩) (rest := l)
    (by rw [List.map_replicate]; rfl)
  rw [List.length_replicate, List.map_replicate, List.reverse_replicate] at hreads
  exact hreads

/-- The run of the machine over a CMD write, polls before the engine's turn, that turn, and the poll after it (R74, R97). -/
theorem RunsTo_command (hb : s.busy = false) {v : Byte} (h : engineStep (s.latch v) = .next t) (polls : Nat) :
    RunsTo (polls + 3) (s.withHost ⟨.write 0x00 v :: (List.replicate polls (.read 0x01) ++ [.engine, .read 0x01]), g⟩)
      (t.withHost ⟨[], t.regRead 0x01 :: List.replicate polls ((s.latch v).regRead 0x01) ++ g⟩) := by
  have hpolls := RunsTo_withHost_polls [.engine, .read 0x01] g (s.latch v) polls 0x01
  have hturn (r : List Byte) :=
    (RunsTo_succ (step_withHost_engine [.read 0x01] r h)).2 (RunsTo_one (step_withHost_read [] r t 0x01))
  exact (RunsTo_succ (step_withHost_write_cmd _ g hb v)).2 (hpolls.trans (hturn _))

end

/-- Settles O53: the CMD write latches the command, and the loop of `wait` polls it under the rest of the schedule. -/
theorem runStatementWaitsForCompletion : Obligations.RunStatementWaitsForCompletion := by
  intro s t i hb hissue
  have hstep := State.issue_latch hb hissue
  have hlatched : (s.latch (encode i)).busy = true := rfl
  obtain ⟨hidle, hhost, -⟩ := engineStep_leaves hlatched hstep
  refine ⟨(s.latch (encode i)).regRead 0x01, t.regRead 0x01, State.status_busy _, t.status_busy.trans hidle, rfl,
    fun q => ?_, fun polls => ?_, RunsTo_command s.host.reads hb hstep⟩
  · obtain ⟨n, hn, q', hpoll⟩ := State.pollUntilIdle_busy q.tail hlatched hstep
    rw [State.hears_of_host_eq hhost] at hpoll
    refine ⟨n, hn.trans ?_, runProgram_run hb i hpoll⟩
    rw [List.length_tail]
    exact Nat.sub_le _ _
  · have hpoll := State.pollUntilIdle_replicate polls hlatched hstep
    rw [State.hears_of_host_eq hhost] at hpoll
    exact runProgram_run (q := List.replicate (polls + 1) false) hb i hpoll

/-- Settles O54: the loop of `wait` on an idle and on a busy block, and the one read of `expect`. -/
theorem waitAndExpectEndAsRead : Obligations.WaitAndExpectEndAsRead := by
  refine ⟨fun s q hb => runProgram_wait (State.pollUntilIdle_idle hb q), fun s t q hb hstep => ?_, fun s q a v l hb => ?_⟩
  · obtain ⟨-, hhost, -⟩ := engineStep_leaves hb hstep
    obtain ⟨n, hn, q', hpoll⟩ := State.pollUntilIdle_busy q hb hstep
    rw [State.hears_of_host_eq hhost] at hpoll
    exact ⟨n, hn, runProgram_wait hpoll⟩
  · show runActions (.check a v :: expandProgram l) q s = _
    rw [runActions, State.access_idle hb, Transaction.event, State.offer_read]
    rfl

/-! ### Programs -/

/-- Under every schedule the program leads from one state to the other, an idle one, but for the bytes the host has read. -/
structure Carries (l : List HostStmt) (s t : State) : Prop where
  performs : Performs (expandProgram l) s t
  idle : t.busy = false
  host : t.host = s.host

theorem Carries.nil {s : State} (hb : s.busy = false) : Carries [] s s := ⟨.nil s, hb, rfl⟩

theorem Carries.append {l m : List HostStmt} {s t u : State} (h : Carries l s t) (k : Carries m t u) :
    Carries (l ++ m) s u where
  performs := by
    rw [expandProgram, List.flatMap_append]
    exact h.performs.append k.performs
  idle := k.idle
  host := k.host.trans h.host

/-- A program of one statement. -/
theorem Carries.stmt {a : HostStmt} {s t : State} (h : Performs a.expand s t) (hb : t.busy = false) (hhost : t.host = s.host) :
    Carries [a] s t where
  performs := by rwa [expandProgram, List.flatMap_singleton]
  idle := hb
  host := hhost

theorem Carries.finished {l : List HostStmt} {s t : State} (h : Carries l s t) (q : List Bool) :
    ∃ got, runProgram q l s = .finished { t with host := { pending := s.host.pending, reads := got ++ s.host.reads } } := by
  obtain ⟨got, hrun⟩ := h.performs.run q
  exact ⟨got, hrun.trans (by rw [State.hears_of_host_eq h.host])⟩

section
variable {s t : State} (hb : s.busy = false)
include hb

theorem Carries.run {i : Instr} (h : s.issue i = some t) : Carries [.run i] s t :=
  have ⟨hidle, hhost, _⟩ := engineStep_leaves (s := s.latch (encode i)) rfl (State.issue_latch hb h)
  .stmt (.run_command hb h) hidle hhost

theorem Carries.setlen (n : Nat) : Carries [.setlen n] s (s.putLen n) :=
  .stmt (.setlen hb n) (by rw [State.putLen_eq]; exact hb) (by rw [State.putLen_eq])

theorem Carries.putkey (k : Block) : Carries [.putkey k] s (s.putKey k) :=
  .stmt (.putkey hb k) (by rw [State.putKey_eq]; exact hb) (by rw [State.putKey_eq])

theorem Carries.putblk (b : Block) : Carries [.putblk b] s (s.putBlk b) :=
  .stmt (.putblk hb b) (by rw [State.putBlk_eq]; exact hb) (by rw [State.putBlk_eq])

theorem Carries.getblk : Carries [.getblk] s s := .stmt (.getblk hb) hb rfl

theorem Carries.wrKeylen (n : Byte) : Carries [.wr (Reg.address .keylen) n] s (s.regWrite (Reg.address .keylen) n) :=
  .stmt (.wr hb _ n) hb rfl

theorem Carries.construct {k : Block} (h : s.construct k = some t) : Carries (constructorProgram k 16) s t :=
  have hkey := Carries.putkey hb k
  have hlen := Carries.wrKeylen hkey.idle 16
  hkey.append (hlen.append (.run hlen.idle h))

end

theorem Carries.blocks (i : Instr) (bs : List Block) {s t : State} (hb : s.busy = false) {os : List Block}
    (h : State.passBlocks i s bs = some (t, os)) : Carries (blockProgram i bs) s t := by
  induction bs generalizing s os with
  | nil =>
    obtain ⟨rfl, -⟩ := Prod.mk.inj (Option.some.inj h)
    exact .nil hb
  | cons b bs ih =>
    have hput := Carries.putblk hb b
    obtain ⟨u, hu, -⟩ := State.issue_completes hput.idle i
    have hrun := Carries.run hput.idle hu
    obtain ⟨v, os', hv⟩ := State.passBlocks_completes i bs hrun.idle
    rw [State.passBlocks, hu] at h
    simp only [hv] at h
    obtain ⟨rfl, -⟩ := Prod.mk.inj (Option.some.inj h)
    exact ((hput.append hrun).append (.getblk hrun.idle)).append (ih hrun.idle hv)

theorem Carries.call {start block : Instr} {n : Nat} {bs os : List Block} {s t : State} (hb : s.busy = false)
    (h : s.call start block n bs = some (t, os)) : Carries ([.setlen n, .run start] ++ blockProgram block bs) s t := by
  have hlen := Carries.setlen hb n
  obtain ⟨u, hu, -⟩ := State.issue_completes hlen.idle start
  have hrun := Carries.run hlen.idle hu
  rw [State.call, hu] at h
  exact (hlen.append hrun).append (.blocks block bs hrun.idle h)

/-- Reads on an idle block give the host their bytes in order, under every schedule (R97). -/
theorem runActions_reads (l : List Reg) (q : List Bool) {s : State} (hb : s.busy = false) :
    runActions (l.map rdAction) q s = .finished (s.hears (l.map fun r => s.regRead r.address).reverse) := by
  induction l generalizing q s with
  | nil => rw [List.map_nil, runActions]; rfl
  | cons r l ih =>
    rw [List.map_cons, rdAction, runActions, State.access_idle hb, Transaction.event, State.offer_read]
    simp only [ih q.tail (s := s.hears [s.regRead r.address]) hb, State.hears_hears, State.hears_regRead, List.map_cons,
      List.reverse_cons]

theorem map_regRead_blkOut (s : State) :
    (List.finRange 16).map (fun i => s.regRead (Reg.address (.blkOut i))) = s.blkOut.toList := by
  refine List.ext_getElem (by simp) fun j _ _ => ?_
  simp [State.regRead_blkOut]

theorem length_wholeBlocks (c : List Byte) : (wholeBlocks c).length = c.length / 16 := by simp [wholeBlocks]

/-- Settles O55: each program statement by statement, as the call composes its accesses and commands. -/
theorem hostProgramsRunTheCalls : Obligations.HostProgramsRunTheCalls := by
  refine ⟨fun s t k q hb h => (Carries.construct hb h).finished q, fun s t p os q hb h => (Carries.call hb h).finished q,
    fun s t c os q hb hwhole h => ?_, fun s q hb => ?_⟩
  · have hlen : 16 * (wholeBlocks c).length = c.length := by
      rw [length_wholeBlocks]
      omega
    rw [State.decryptCall, hlen] at h
    exact (Carries.call hb h).finished q
  · have hexpand : expandProgram [.getblk] = ((List.finRange 16).map Reg.blkOut).map rdAction := by
      rw [List.map_map]
      exact List.flatMap_singleton ..
    rw [runProgram, hexpand, runActions_reads _ q hb, List.map_map]
    exact congrArg (fun g : List Byte => ProgramEnd.finished (s.hears g.reverse)) (map_regRead_blkOut s)

end Sys2Proof.Machine
end
